-- ==== Sys2Proof/Word.lean ====
section
/-!
DEFINITION. The two word types of the HXE.
-/

namespace Sys2Proof

/-- `u32` (R9): the type of every register, HashState word, schedule word, working register and round constant. -/
abbrev Word := BitVec 32

/-- `byte`, a `u8` (R9): one byte of BUF. -/
abbrev Byte := BitVec 8

/-- A host byte offset inside the 0x2000-byte window: 13 bits (R21 `bus_addr`, R64). -/
abbrev Offset := BitVec 13

end Sys2Proof
end

