-- ==== Sys2Proof/Config.lean ====
section
/-!
DEFINITION. What an implementation of the HXE fixes (R8), and the free values: what the spec calls unspecified.
-/

namespace Sys2Proof

/-- The parameters of R8 that a machine of this model may choose.
State carries one `Config`, which no step changes, so a statement over every state is over every legal `BUF_SIZE`. -/
structure Config where
  /-- `BUF_SIZE`: the size in bytes of the message buffer BUF (R8, R60). -/
  bufSize : Nat
  deriving DecidableEq, Repr

/-- The reference configuration of R8: `BUF_SIZE = 4096`. -/
def Config.default : Config := { bufSize := 4096 }

/-- `ID_VALUE` (R8, R25): fixed at `0x4858_4501`, ASCII "HXE" and interface revision 1. -/
def Config.idValue : Word := 0x48584501#32

/-- FREE VALUE (assumption 3). `freeWord n lane` is lane `lane` of the `n`-th draw of the run.
It stands for every unspecified word: a host read of H, OUTLEN or BUF while BUSY (R41, U1), the response to a
transaction while `rst_n` = 0 (R230, U6), and the hidden registers outside a command (R42 to R45, U10).
It has no body, so nothing can be proved about its values. -/
opaque Config.freeWord : Nat → Nat → Word

/-- FREE VALUE (assumption 2). `unwrittenByte e a` is what BUF byte `a` holds after the `e`-th reset when nothing has
written it since (R63, U2, U7): drawn once per byte and reset, and then held.
It has no body, so nothing can be proved about its values. -/
opaque Config.unwrittenByte : Nat → Nat → Byte

end Sys2Proof
end

