-- ==== Sys2Proof/Syntax.lean ====
section
/-!
DEFINITION. The commands of the HXE: one constructor for each row of the opcode map (R92).
-/

namespace Sys2Proof

/-- The nine commands (R92). No command encodes an operand in its word: operands are the operand registers (R91). -/
inductive Instr where
  /-- NOP, OP 0x00 (R119). -/
  | nop
  /-- PAD, OP 0x01 (R133). -/
  | pad
  /-- EXPAND, OP 0x02 (R142). -/
  | expand
  /-- COMPRESS, OP 0x03 (R154). -/
  | compress
  /-- LOAD_IV, OP 0x04 (R172). -/
  | loadIv
  /-- IMPORT_HEX, OP 0x05 (R173). -/
  | importHex
  /-- IMPORT_BYTES, OP 0x06 (R174). -/
  | importBytes
  /-- EXPORT_HEX, OP 0x07 (R175). -/
  | exportHex
  /-- EXPORT_BYTES, OP 0x08 (R176). -/
  | exportBytes
  deriving DecidableEq, Repr

end Sys2Proof
end

