-- ==== Sys2Proof/WellFormed.lean ====
section
/-!
DEFINITION. What a legal term is: a configuration within R8's bounds, a command word with its reserved field zero.
-/

namespace Sys2Proof

/-- A legal configuration (R8): `BUF_SIZE` is a multiple of 64 with 256 ≤ BUF_SIZE ≤ 4096. -/
def Config.wf (c : Config) : Bool :=
  c.bufSize % 64 == 0 && decide (256 ≤ c.bufSize) && decide (c.bufSize ≤ 4096)

/-- Every command is well formed by itself: it has no operand field that could be out of range (R91, R94). -/
def Instr.wf : Instr → Bool
  | .nop | .pad | .expand | .compress | .loadIv | .importHex | .importBytes | .exportHex | .exportBytes => true

/-- A command WORD is legal when RSVD (bits 31:8) is zero and OP is in the opcode map, 0x00 to 0x08 (R90, R93). -/
def wordWf (w : Word) : Bool :=
  w.extractLsb' 8 24 == 0#24 && decide ((w.extractLsb' 0 8).toNat ≤ 8)

end Sys2Proof
end

