-- ==== Sys2Proof/Decode.lean ====
section
/-!
DEFINITION. The command decoder (R90) and, after it, the encoder, both written from the opcode map (R92).
-/

namespace Sys2Proof

/-- Why a word decodes to ILLEGAL (R93). -/
inductive DecodeError where
  /-- RSVD, bits 31:8, is not zero. -/
  | reservedBits
  /-- RSVD is zero and OP is one of 0x09 to 0xFF. -/
  | reservedOpcode
  deriving DecidableEq, Repr

/-- The opcode map (R92), from OP to the command; `none` for a reserved OP. -/
def opcodeMap (op : BitVec 8) : Option Instr :=
  match op.toNat with
  | 0 => some .nop
  | 1 => some .pad
  | 2 => some .expand
  | 3 => some .compress
  | 4 => some .loadIv
  | 5 => some .importHex
  | 6 => some .importBytes
  | 7 => some .exportHex
  | 8 => some .exportBytes
  | _ => none

/-- `DecodeCmd` (R90), total on every 32-bit word: RSVD first, then the opcode map. -/
def decodeCmd (w : Word) : Except DecodeError Instr :=
  if w.extractLsb' 8 24 = 0#24 then
    match opcodeMap (w.extractLsb' 0 8) with
    | some i => .ok i
    | none => .error .reservedOpcode
  else
    .error .reservedBits

/-- The instruction read from the table's word of `nbits` bits: every bit at `nbits` and above is zero, and a command
is exactly one 32-bit word (R94). -/
def decodeTableWord (nbits w : Nat) : Option Instr :=
  if w % 2 ^ nbits < 2 ^ 32 then
    (decodeCmd (BitVec.ofNat 32 (w % 2 ^ nbits))).toOption
  else
    none

/-- The OP field of each command (R92). -/
def Instr.opcode : Instr → BitVec 8
  | .nop => 0x00#8
  | .pad => 0x01#8
  | .expand => 0x02#8
  | .compress => 0x03#8
  | .loadIv => 0x04#8
  | .importHex => 0x05#8
  | .importBytes => 0x06#8
  | .exportHex => 0x07#8
  | .exportBytes => 0x08#8

/-- The word of each command: `zext_32(OP)`, RSVD zero (R90, R92). -/
def encode (i : Instr) : Word :=
  0#24 ++ i.opcode

end Sys2Proof
end

