-- ==== Sys2Proof/Machine/Types.lean ====
section
/-!
DEFINITION. The data types State is made of: HashState, WorkingRegisters, the captured command, errors, the host's
transactions and the bus response.
-/

namespace Sys2Proof.Machine

/-- HashState: "exactly eight unsigned 32-bit words" `h0` to `h7` (R7, R35). -/
structure HashState where
  h0 : Word
  h1 : Word
  h2 : Word
  h3 : Word
  h4 : Word
  h5 : Word
  h6 : Word
  h7 : Word
  deriving DecidableEq, Repr

/-- WorkingRegisters `a` to `h` (R7, R43). -/
structure Working where
  a : Word
  b : Word
  c : Word
  d : Word
  e : Word
  f : Word
  g : Word
  h : Word
  deriving DecidableEq, Repr

/-- The engine's phase (R42). STATUS.BUSY is 1 exactly when the phase is BUSY. -/
inductive Phase where
  | idle
  | busy
  deriving DecidableEq, Repr

/-- The command errors (R200). Codes 2 and 6 to 15 are reserved and never raised (R203, U14), so they have no name. -/
inductive CmdError where
  /-- MALFORMED_DIGEST, code 1: raised by IMPORT_HEX (R201). -/
  | malformedDigest
  /-- INTERNAL_ALIGNMENT, code 3: raised by COMPRESS (R202). -/
  | internalAlignment
  /-- ILLEGAL_COMMAND, code 4: raised by any word that decodes to ILLEGAL (R204). -/
  | illegalCommand
  /-- BUFFER_RANGE, code 5: raised by every command with an input or output range in BUF (R205). -/
  | bufferRange
  deriving DecidableEq, Repr

/-- The captured command `cmd` (R42, R110): the word and the operand registers as they stood at acceptance. -/
structure Command where
  word : Word
  src : Word
  dst : Word
  len : Word
  prior : BitVec 64
  deriving DecidableEq, Repr

/-- A host transaction (R23). -/
inductive Txn where
  | read (addr : Offset)
  | write (addr : Offset) (data : Word)
  deriving DecidableEq, Repr

/-- `resp ∈ {OK, ERR}` (R23); the port `bus_err` is 1 for ERR (R21). -/
inductive Resp where
  | ok
  | err
  deriving DecidableEq, Repr

/-- What the bus answers to one transaction (R23): read data for a read, none for a write, and the response. -/
structure Response where
  rdata : Option Word
  resp : Resp
  deriving DecidableEq, Repr

/-- What the outside world may do next: one transaction (R23), the host's POLL loop (R96), or driving `rst_n` (R21). -/
inductive HostOp where
  | txn (t : Txn)
  /-- Read STATUS again and again until the value read has bit 0 (BUSY) = 0 (R96). -/
  | poll
  /-- Drive `rst_n` to 0 (R230). -/
  | assertReset
  /-- Drive `rst_n` back to 1 (R230). -/
  | releaseReset
  deriving DecidableEq, Repr

/-- The two agents (R20). -/
inductive Agent where
  | host
  | engine
  deriving DecidableEq, Repr

/-- BUF as the bytes written since reset, by address. -/
abbrev Memory := List Host.Cell

/-- What `Exec` reads and answers beside the command: H, BUF and OUTLEN (R113). -/
structure Data where
  h : HashState
  buf : Memory
  outlen : Word
  deriving DecidableEq, Repr

/-- What `Exec` answers: `Ok(H', BUF', OUTLEN')` or `Err(code)` (R113). -/
abbrev CmdResult := Except CmdError Data

/-- The host-visible registers (R24). -/
inductive Reg where
  | id
  | ctrl
  | status
  | cmd
  | src
  | dst
  | len
  | outlen
  | priorLo
  | priorHi
  | bufsz
  | h (i : Fin 8)
  deriving DecidableEq, Repr

/-- What a mapped offset selects (R24): a register, or the BUF word whose first byte is `addr` (R61). -/
inductive Target where
  | reg (r : Reg)
  | bufWord (addr : Nat)
  deriving DecidableEq, Repr

/-- `H[i]` for i = 0..7 (R13, R35). -/
def HashState.get (x : HashState) (i : Fin 8) : Word :=
  match i with
  | 0 => x.h0
  | 1 => x.h1
  | 2 => x.h2
  | 3 => x.h3
  | 4 => x.h4
  | 5 => x.h5
  | 6 => x.h6
  | 7 => x.h7

/-- `H[i] <- v` for i = 0..7 (R13, R35). -/
def HashState.set (x : HashState) (i : Fin 8) (v : Word) : HashState :=
  match i with
  | 0 => { x with h0 := v }
  | 1 => { x with h1 := v }
  | 2 => { x with h2 := v }
  | 3 => { x with h3 := v }
  | 4 => { x with h4 := v }
  | 5 => { x with h5 := v }
  | 6 => { x with h6 := v }
  | 7 => { x with h7 := v }

/-- The eight words in order. -/
def HashState.toList (x : HashState) : List Word :=
  [x.h0, x.h1, x.h2, x.h3, x.h4, x.h5, x.h6, x.h7]

/-- `for i in 0..7: H[i] <- f i`. -/
def HashState.ofFn (f : Nat → Word) : HashState :=
  { h0 := f 0, h1 := f 1, h2 := f 2, h3 := f 3, h4 := f 4, h5 := f 5, h6 := f 6, h7 := f 7 }

end Sys2Proof.Machine
end

