-- ==== Sys2Proof/Machine/State.lean ====
section
/-!
DEFINITION. The state of the HXE, its stop reasons, and the state after reset (R50).
-/

namespace Sys2Proof.Machine

/-- Everything the spec gives the HXE (10_state.md), what the outside world is about to do to it (the two agents of R20),
and two counters of the model's own that free values are applied to. -/
structure State where
  /-- The configuration (R8): BUFSZ reads `cfg.bufSize` (R34). No step changes it. -/
  cfg : Config
  /-- The port `rst_n` (R21): false while the HXE is held in reset. -/
  rstN : Bool
  /-- CTRL.IE (R26). -/
  ie : Bool
  /-- The engine phase (R42); STATUS.BUSY is computed from it (R27). -/
  phase : Phase
  /-- STATUS.DONE (R27). -/
  done : Bool
  /-- STATUS.OVR (R27, R209). -/
  ovr : Bool
  /-- STATUS.ERR (R27, R200); `none` is code 0. -/
  err : Option CmdError
  /-- SRC (R29). -/
  src : Word
  /-- DST (R30). -/
  dst : Word
  /-- LEN (R31). -/
  len : Word
  /-- OUTLEN (R32). -/
  outlen : Word
  /-- PRIOR_LO (R33). -/
  priorLo : Word
  /-- PRIOR_HI (R33). -/
  priorHi : Word
  /-- H0 to H7 (R35). -/
  h : HashState
  /-- BUF (R60): the bytes written since reset, addresses strictly rising.
  A byte not listed is unwritten: it reads as a free value (R63, assumption 2). -/
  buf : Memory
  /-- The captured command (R42, R110). -/
  cmd : Command
  /-- WorkingRegisters a..h (R43). -/
  work : Working
  /-- MessageSchedule W[0..63] (R44). -/
  w : Vector Word 64
  /-- The block index k (R45). -/
  k : Nat
  /-- The round index t (R45). -/
  t : Fin 64
  /-- What the bus answered to the last transaction since reset, if there was one (R21, R23). -/
  bus : Option Response
  /-- What the outside world does next, in the order it does it (R23). -/
  inputs : List HostOp
  /-- Who moves at each coming step of a BUSY window (R23, R113): the engine when the list is used up. -/
  turns : List Agent
  /-- MODEL'S OWN: how many draws of `Config.freeWord` the run has made. -/
  draws : Nat
  /-- MODEL'S OWN: how many resets the run has seen, the argument of `Config.unwrittenByte`. -/
  epoch : Nat
  deriving DecidableEq, Repr

/-- Reasons a step stops with a fault: there are none.
A bus error (R67) and a command error (R207) are next states of the HXE, so no step raises a fault. -/
inductive Fault where
  deriving DecidableEq, Repr

/-- Reasons a step is refused. -/
inductive Refusal where
  /-- Raised by an arm of `exec` whose instruction has no meaning yet, and by nothing else.
  Safe: the machine stops where the hardware goes on. No arm raises it in this model. -/
  | notModelled (mnemonic : String)
  deriving DecidableEq, Repr

/-- The state after reset (R50) of an HXE with configuration `c`, `rst_n` released.
The hidden registers `cmd`, a..h, W, k and t have no reset value in the spec: zero is this model's (assumption 4). -/
def State.resetWith (c : Config) : State where
  cfg := c
  rstN := true
  ie := false
  phase := .idle
  done := false
  ovr := false
  err := none
  src := 0#32
  dst := 0#32
  len := 0#32
  outlen := 0#32
  priorLo := 0#32
  priorHi := 0#32
  h := iv
  buf := []
  cmd := { word := 0#32, src := 0#32, dst := 0#32, len := 0#32, prior := 0#64 }
  work := { a := 0#32, b := 0#32, c := 0#32, d := 0#32, e := 0#32, f := 0#32, g := 0#32, h := 0#32 }
  w := Vector.replicate 64 0#32
  k := 0
  t := 0
  bus := none
  inputs := []
  turns := []
  draws := 0
  epoch := 0

/-- The machine right after reset (R50), in the reference configuration (R8). -/
def State.reset : State :=
  State.resetWith Config.default

end Sys2Proof.Machine
end

