-- ==== Sys2Proof/Machine/Flags.lean ====
section
/-!
DEFINITION. STATUS, CTRL and the interrupt line (R26, R27, R210): the only flags of the HXE (R48).
-/

namespace Sys2Proof.Machine

/-- The code of a command error in STATUS.ERR (R200). -/
def CmdError.code : CmdError → BitVec 4
  | .malformedDigest => 1#4
  | .internalAlignment => 3#4
  | .illegalCommand => 4#4
  | .bufferRange => 5#4

/-- The field STATUS.ERR: 0 when the last command succeeded (R27, R200). -/
def errField : Option CmdError → BitVec 4
  | none => 0#4
  | some e => e.code

/-- STATUS.BUSY, 1 exactly when the phase is BUSY (R42). -/
def State.busy (s : State) : Bool :=
  decide (s.phase = .busy)

/-- STATUS read whole (R27): ERR in bits 7:4, OVR bit 2, DONE bit 1, BUSY bit 0, reserved bits zero. -/
def State.statusWord (s : State) : Word :=
  0#24 ++ errField s.err ++ 0#1 ++ BitVec.ofBool s.ovr ++ BitVec.ofBool s.done ++ BitVec.ofBool s.busy

/-- CTRL read whole (R26): IE in bit 0, reserved bits zero. -/
def State.ctrlWord (s : State) : Word :=
  0#31 ++ BitVec.ofBool s.ie

/-- A CTRL write sets IE to bit 0 and ignores the reserved bits (R26). -/
def State.writeCtrl (s : State) (v : Word) : State :=
  { s with ie := v.getLsbD 0 }

/-- The port `irq`, a level: CTRL.IE and STATUS.DONE (R210). -/
def State.irq (s : State) : Bool :=
  s.ie && s.done

end Sys2Proof.Machine
end

