-- ==== Sys2Proof/Machine/Bytes.lean ====
section
/-!
DEFINITION. Byte order and rotation, decided once (R11, R12, R65): every multi-byte value in BUF is big-endian.
-/

namespace Sys2Proof.Machine

/-- `BE32(b0, b1, b2, b3)`, the big-endian reading of four bytes (R12). -/
def be32 (b0 b1 b2 b3 : Byte) : Word :=
  BitVec.ofNat 32 (b0.toNat * 2 ^ 24 + b1.toNat * 2 ^ 16 + b2.toNat * 2 ^ 8 + b3.toNat)

/-- `BE32` of bytes i to i+3 of a byte sequence. -/
def be32At (s : List Byte) (i : Nat) : Word :=
  be32 (s.getD i 0#8) (s.getD (i + 1) 0#8) (s.getD (i + 2) 0#8) (s.getD (i + 3) 0#8)

/-- `BE_N(v)`, the N-byte big-endian encoding of v mod 2^(8N), most significant byte first (R12). -/
def beBytes (n v : Nat) : List Byte :=
  (List.range n).map fun i => BitVec.ofNat 8 (v / 256 ^ (n - 1 - i))

/-- The big-endian concatenation of words, four bytes each (R142, R176). -/
def wordsBytes (ws : List Word) : List Byte :=
  ws.flatMap fun x => beBytes 4 x.toNat

/-- `rotr(x, n)`, the 32-bit circular right rotation, used with 0 < n < 32 (R11). -/
def rotr (x : Word) (n : Nat) : Word :=
  (x >>> n) ||| (x <<< (32 - n))

end Sys2Proof.Machine
end

