-- ==== Sys2Proof/Machine/Operands.lean ====
section
/-!
DEFINITION. The operands of a command (R91, R92, R112): the operand registers as captured at acceptance.
-/

namespace Sys2Proof.Machine

/-- The operand registers (R91). PRIOR is the only operand wider than 32 bits. -/
inductive Operand where
  | src
  | dst
  | len
  | prior
  deriving DecidableEq, Repr

/-- The "operands read" column of the opcode map (R92). An operand not listed is ignored (R91). -/
def operandsRead : Instr → List Operand
  | .nop => []
  | .pad => [.src, .len, .dst, .prior]
  | .expand => [.src, .dst]
  | .compress => [.src, .len]
  | .loadIv => []
  | .importHex => [.src, .len]
  | .importBytes => [.src]
  | .exportHex => [.dst]
  | .exportBytes => [.dst]

/-- `PRIOR = PRIOR_HI · 2^32 + PRIOR_LO` (R33), as the registers hold it. -/
def State.prior (s : State) : BitVec 64 :=
  s.priorHi ++ s.priorLo

/-- The operand values as they stand in the registers, with the command word (R110). -/
def State.capture (s : State) (word : Word) : Command :=
  { word := word, src := s.src, dst := s.dst, len := s.len, prior := s.prior }

/-- `cmd.SRC`, a BUF byte offset (R91): unsigned, never scaled or shifted. -/
def State.opSrc (s : State) : Nat :=
  s.cmd.src.toNat

/-- `cmd.DST`, a BUF byte offset (R91). -/
def State.opDst (s : State) : Nat :=
  s.cmd.dst.toNat

/-- `cmd.LEN`, a byte count (R91). -/
def State.opLen (s : State) : Nat :=
  s.cmd.len.toNat

/-- `cmd.PRIOR`, a byte count (R91). -/
def State.opPrior (s : State) : Nat :=
  s.cmd.prior.toNat

/-- The captured command with one operand replaced. -/
def Command.withOperand (c : Command) (o : Operand) (v : BitVec 64) : Command :=
  match o with
  | .src => { c with src := v.setWidth 32 }
  | .dst => { c with dst := v.setWidth 32 }
  | .len => { c with len := v.setWidth 32 }
  | .prior => { c with prior := v }

end Sys2Proof.Machine
end

