-- ==== Sys2Proof/Machine/Ops.lean ====
section
/-!
DEFINITION. The named operations over BUF and the registers, and the lifecycle of a command: acceptance, error entry,
error return, success, reset.
-/

namespace Sys2Proof.Machine

/-- The written byte at an address, or none where nothing has been written since reset. -/
def Memory.byteAt : Memory → Nat → Option Byte
  | [], _ => none
  | (x, v) :: rest, a => if x = a then some v else Memory.byteAt rest a

/-- Write one byte, keeping addresses strictly rising. -/
def Memory.setByte : Memory → Nat → Byte → Memory
  | [], a, b => [(a, b)]
  | (x, v) :: rest, a, b =>
    if a < x then (a, b) :: (x, v) :: rest
    else if a = x then (a, b) :: rest
    else (x, v) :: Memory.setByte rest a b

/-- Write consecutive bytes from an address upward. -/
def Memory.setBytes : Memory → Nat → List Byte → Memory
  | m, _, [] => m
  | m, a, b :: bs => Memory.setBytes (Memory.setByte m a b) (a + 1) bs

/-- The canonical form of BUF: addresses strictly rising.
An unlisted address reads as "unwritten", which no entry can equal. -/
def Memory.wf : Memory → Bool
  | [] => true
  | [_] => true
  | (x, _) :: (y, v) :: rest => decide (x < y) && Memory.wf ((y, v) :: rest)

/-- Every listed address is one of BUF's, 0 to `size` − 1 (R60). -/
def Memory.within (m : Memory) (size : Nat) : Bool :=
  m.all fun c => decide (c.1 < size)

/-- BUF byte `a` (R60): the byte last written since reset, else the free value of assumption 2 (R63, U2). -/
def State.byte (s : State) (a : Nat) : Byte :=
  match s.buf.byteAt a with
  | some b => b
  | none => Config.unwrittenByte s.epoch a

/-- `InRange(addr, n)`: addr + n ≤ BUF_SIZE over unbounded integers (R117). -/
def State.inRange (s : State) (addr n : Nat) : Bool :=
  decide (addr + n ≤ s.cfg.bufSize)

/-- `MemRead(addr, n)`, the byte sequence BUF[addr..addr+n) (R13). -/
def State.memRead (s : State) (addr n : Nat) : List Byte :=
  (List.range n).map fun i => s.byte (addr + i)

/-- What `Exec` reads beside the command (R113). -/
def State.data (s : State) : Data :=
  { h := s.h, buf := s.buf, outlen := s.outlen }

/-- `MemWrite(addr, n, v)` with n = len(v) (R13). -/
def Data.memWrite (d : Data) (addr : Nat) (v : List Byte) : Data :=
  { d with buf := d.buf.setBytes addr v }

/-- Lane `lane` of the next draw of free words (assumption 3). -/
def State.draw (s : State) (lane : Nat) : Word :=
  Config.freeWord s.draws lane

/-- The hidden registers take unspecified values: outside a command `cmd`, a..h, W, k and t hold any value (R42 to R45,
U10), so each of them is drawn anew. -/
def State.forgetHidden (s : State) : State :=
  { s with
    work := { a := s.draw 0, b := s.draw 1, c := s.draw 2, d := s.draw 3,
              e := s.draw 4, f := s.draw 5, g := s.draw 6, h := s.draw 7 }
    w := Vector.ofFn fun i => s.draw (8 + i.val)
    k := (s.draw 72).toNat
    t := Fin.ofNat 64 (s.draw 73).toNat
    cmd := { word := s.draw 74, src := s.draw 75, dst := s.draw 76, len := s.draw 77,
             prior := s.draw 78 ++ s.draw 79 }
    draws := s.draws + 1 }

/-- Acceptance of `Write(CMD, w)` in phase IDLE (R110): the operands are captured, BUSY is set, DONE and ERR cleared.
OVR and CTRL are unchanged, and the word is not checked. -/
def State.accept (s : State) (word : Word) : State :=
  { s with phase := .busy, cmd := s.capture word, done := false, err := none }

/-- The end of a command that R114 and R115 share: phase IDLE (so BUSY is 0), DONE set, the hidden registers free. -/
def State.endCommand (s : State) : State :=
  { s.forgetHidden with phase := .idle, done := true }

/-- ERROR ENTRY (R114, R207): the command ends with STATUS.ERR set to the error's code.
H, BUF and OUTLEN do not change, nothing is saved and no control is transferred. -/
def State.failCommand (s : State) (e : CmdError) : State :=
  { s.endCommand with err := some e }

/-- Success (R115): H, BUF and OUTLEN take the command's results together, and ERR is 0. -/
def State.succeed (s : State) (d : Data) : State :=
  { s.endCommand with h := d.h, buf := d.buf, outlen := d.outlen, err := none }

/-- **Complete** (R113): apply R114 or R115 to what the command computed from the state before it (R116). -/
def State.complete (s : State) (r : CmdResult) : State :=
  match r with
  | .ok d => s.succeed d
  | .error e => s.failCommand e

/-- ERROR RETURN and W1C (R27, R208): a STATUS write clears DONE where bit 1 is 1 and OVR where bit 2 is 1. -/
def State.writeStatus (s : State) (v : Word) : State :=
  { s with done := s.done && !v.getLsbD 1, ovr := s.ovr && !v.getLsbD 2 }

/-- Reset (R230, R231): every register takes its reset value (R50), BUF is unwritten, the hidden registers are free.
A running command is abandoned. The configuration and the outside world are not the HXE's to reset. -/
def State.applyReset (s : State) : State :=
  ({ State.resetWith s.cfg with
      rstN := s.rstN, inputs := s.inputs, turns := s.turns, draws := s.draws,
      epoch := s.epoch + 1 } : State).forgetHidden

end Sys2Proof.Machine
end

