-- ==== Sys2Proof/Machine/Bus.lean ====
section
/-!
DEFINITION. The host's side of the HXE: the register map (R24), reads and writes (R37 to R41, R61, R67), POLL (R96) and the
reset line (R230).
-/

namespace Sys2Proof.Machine

/-- The register region of the window (R24): none for a reserved or misaligned offset (R36). -/
def regAt (n : Nat) : Option Reg :=
  match n with
  | 0x000 => some .id
  | 0x004 => some .ctrl
  | 0x008 => some .status
  | 0x00C => some .cmd
  | 0x010 => some .src
  | 0x014 => some .dst
  | 0x018 => some .len
  | 0x01C => some .outlen
  | 0x020 => some .priorLo
  | 0x024 => some .priorHi
  | 0x028 => some .bufsz
  | 0x040 => some (.h 0)
  | 0x044 => some (.h 1)
  | 0x048 => some (.h 2)
  | 0x04C => some (.h 3)
  | 0x050 => some (.h 4)
  | 0x054 => some (.h 5)
  | 0x058 => some (.h 6)
  | 0x05C => some (.h 7)
  | _ => none

/-- The "offset" column of the register map (R24). -/
def Reg.offset : Reg → Offset
  | .id => 0x000#13
  | .ctrl => 0x004#13
  | .status => 0x008#13
  | .cmd => 0x00C#13
  | .src => 0x010#13
  | .dst => 0x014#13
  | .len => 0x018#13
  | .outlen => 0x01C#13
  | .priorLo => 0x020#13
  | .priorHi => 0x024#13
  | .bufsz => 0x028#13
  | .h i => BitVec.ofNat 13 (0x040 + 4 * i.val)

/-- What a host offset selects (R24, R36): registers below 0x1000, the BUF window from 0x1000 to 0x1000 + BUF_SIZE − 4,
and nothing at a reserved offset or one that is not a multiple of 4. -/
def decodeOffset (c : Config) (a : Offset) : Option Target :=
  if a.toNat < 0x1000 then
    (regAt a.toNat).map .reg
  else if a.toNat % 4 = 0 ∧ a.toNat + 4 ≤ 0x1000 + c.bufSize then
    some (.bufWord (a.toNat - 0x1000))
  else
    none

/-- A host write to one of these is dropped while BUSY = 1 and sets OVR (R40). -/
def Target.dropsWhileBusy : Target → Bool
  | .reg .cmd | .reg .src | .reg .dst | .reg .len | .reg .priorLo | .reg .priorHi | .reg (.h _) | .bufWord _ => true
  | .reg .id | .reg .ctrl | .reg .status | .reg .outlen | .reg .bufsz => false

/-- A host read of one of these while BUSY = 1 returns an unspecified value (R41). -/
def Target.unspecifiedWhileBusy : Target → Bool
  | .reg .outlen | .reg (.h _) | .bufWord _ => true
  | .reg .id | .reg .ctrl | .reg .status | .reg .cmd | .reg .src | .reg .dst | .reg .len | .reg .priorLo
  | .reg .priorHi | .reg .bufsz => false

/-- The value of a register as a read returns it, reserved bits zero (R25 to R35, R37); CMD reads 0 (R28). -/
def State.readReg (s : State) (r : Reg) : Word :=
  match r with
  | .id => Config.idValue
  | .ctrl => s.ctrlWord
  | .status => s.statusWord
  | .cmd => 0#32
  | .src => s.src
  | .dst => s.dst
  | .len => s.len
  | .outlen => s.outlen
  | .priorLo => s.priorLo
  | .priorHi => s.priorHi
  | .bufsz => BitVec.ofNat 32 s.cfg.bufSize
  | .h i => s.h.get i

/-- The value a mapped offset holds; a BUF word is four bytes, big-endian (R61). -/
def State.readTarget (s : State) (t : Target) : Word :=
  match t with
  | .reg r => s.readReg r
  | .bufWord a => be32 (s.byte a) (s.byte (a + 1)) (s.byte (a + 2)) (s.byte (a + 3))

/-- The effect of a performed write (R26 to R35, R38, R39, R61): a write to CMD in phase IDLE is accepted (R110), and a
read-only register ignores it. -/
def State.writeTarget (s : State) (t : Target) (v : Word) : State :=
  match t with
  | .reg .id | .reg .outlen | .reg .bufsz => s
  | .reg .ctrl => s.writeCtrl v
  | .reg .status => s.writeStatus v
  | .reg .cmd => s.accept v
  | .reg .src => { s with src := v }
  | .reg .dst => { s with dst := v }
  | .reg .len => { s with len := v }
  | .reg .priorLo => { s with priorLo := v }
  | .reg .priorHi => { s with priorHi := v }
  | .reg (.h i) => { s with h := s.h.set i v }
  | .bufWord a => { s with buf := s.buf.setBytes a (beBytes 4 v.toNat) }

/-- The bus answers the transaction. -/
def State.respond (s : State) (rdata : Option Word) (resp : Resp) : State :=
  { s with bus := some { rdata := rdata, resp := resp } }

/-- An unspecified read value: the next draw, which no later draw repeats (R41, U1). -/
def State.respondUnspecified (s : State) : State :=
  { s with bus := some { rdata := some (s.draw 0), resp := .ok }, draws := s.draws + 1 }

/-- `Read(addr)` (R37): the bus error at an unmapped offset (R67), an unspecified value while BUSY (R41), else the value. -/
def State.busRead (s : State) (a : Offset) : State :=
  match decodeOffset s.cfg a with
  | none => s.respond (some 0#32) .err
  | some t =>
    if s.busy && t.unspecifiedWhileBusy then s.respondUnspecified
    else s.respond (some (s.readTarget t)) .ok

/-- `Write(addr, data)` (R38 to R40): the bus error at an unmapped offset (R67), dropped with OVR set while BUSY (R40),
else performed. -/
def State.busWrite (s : State) (a : Offset) (v : Word) : State :=
  match decodeOffset s.cfg a with
  | none => s.respond none .err
  | some t =>
    if s.busy && t.dropsWhileBusy then ({ s with ovr := true } : State).respond none .ok
    else (s.writeTarget t v).respond none .ok

/-- The response to a transaction while `rst_n` = 0: unspecified in data and in kind, and the transaction has no effect
(R230, U6). -/
def State.respondInReset (s : State) (t : Txn) : State :=
  { s with
    bus := some {
      rdata := match t with
        | .read _ => some (s.draw 0)
        | .write _ _ => none
      resp := if (s.draw 1).getLsbD 0 then .err else .ok }
    draws := s.draws + 1 }

/-- One host transaction, a single atomic step (R23). -/
def State.transact (s : State) (t : Txn) : State :=
  if s.rstN then
    match t with
    | .read a => s.busRead a
    | .write a v => s.busWrite a v
  else
    s.respondInReset t

/-- Bit 0 of the value last read: what POLL looks at (R96). -/
def State.lastReadBusy (s : State) : Bool :=
  match s.bus with
  | some { rdata := some v, resp := _ } => v.getLsbD 0
  | _ => false

/-- One action of the outside world.
POLL reads STATUS once and stays next in line while the value read has BUSY = 1 (R96).
Releasing `rst_n` when it is already 1 is no edge and changes nothing. -/
def State.hostStep (s : State) (op : HostOp) : State :=
  match op with
  | .txn t => s.transact t
  | .poll =>
    { s.transact (.read Reg.status.offset) with
      inputs := if (s.transact (.read Reg.status.offset)).lastReadBusy then .poll :: s.inputs else s.inputs }
  | .assertReset => { s.applyReset with rstN := false }
  | .releaseReset => if s.rstN then s else { s.applyReset with rstN := true }

/-- The host moves: its next action, if it has one.
With none waiting the HXE does nothing (R216). -/
def State.hostTurn (s : State) : State :=
  match s.inputs with
  | [] => s
  | op :: rest => ({ s with inputs := rest } : State).hostStep op

end Sys2Proof.Machine
end

