-- ==== Sys2Proof/Machine/Codec.lean ====
section
/-!
DEFINITION. The state codec: LOAD_IV, IMPORT_HEX, IMPORT_BYTES, EXPORT_HEX and EXPORT_BYTES (R170 to R176).
-/

namespace Sys2Proof.Machine

/-- `HexVal(c)`: the value of a hex digit in either case; none for every other byte, INVALID (R170). -/
def hexVal (c : Byte) : Option Nat :=
  if 0x30 ≤ c.toNat ∧ c.toNat ≤ 0x39 then some (c.toNat - 0x30)
  else if 0x61 ≤ c.toNat ∧ c.toNat ≤ 0x66 then some (c.toNat - 0x61 + 10)
  else if 0x41 ≤ c.toNat ∧ c.toNat ≤ 0x46 then some (c.toNat - 0x41 + 10)
  else none

/-- A byte IMPORT_HEX accepts (R170). -/
def isHexDigit (c : Byte) : Bool :=
  (hexVal c).isSome

/-- `lower` (R177): maps 'A'..'F' to 'a'..'f' and leaves every other byte. -/
def lowerHex (c : Byte) : Byte :=
  if 0x41 ≤ c.toNat ∧ c.toNat ≤ 0x46 then BitVec.ofNat 8 (c.toNat + 0x20) else c

/-- The number a digit string spells, most significant digit first (R170). -/
def hexNumber (s : List Byte) : Nat :=
  s.foldl (fun acc c => acc * 16 + (hexVal c).getD 0) 0

/-- `HexWord(s[0..8))` (R170), for a group of eight valid digits. -/
def hexWord (s : List Byte) : Word :=
  BitVec.ofNat 32 (hexNumber s)

/-- `HexChar(v)` for 0 ≤ v ≤ 15, lower case (R171). -/
def hexChar (v : Nat) : Byte :=
  if v ≤ 9 then BitVec.ofNat 8 (0x30 + v) else BitVec.ofNat 8 (0x61 + v - 10)

/-- `HexText(x)`: eight characters, bits 31:28 first (R171). -/
def hexText (x : Word) : List Byte :=
  (List.range 8).map fun d => hexChar (x.toNat / 16 ^ (7 - d) % 16)

/-- The state eight 8-character groups spell, in order (R173). -/
def hexState (s : List Byte) : HashState :=
  HashState.ofFn fun i => hexWord ((s.drop (8 * i)).take 8)

/-- The 64 characters of a state (R175). -/
def stateHex (x : HashState) : List Byte :=
  x.toList.flatMap hexText

/-- The state 32 big-endian bytes spell (R174). -/
def bytesState (b : List Byte) : HashState :=
  HashState.ofFn fun i => be32At b (4 * i)

/-- The 32 bytes of a state: big-endian concatenation of the eight words (R176). -/
def stateBytes (x : HashState) : List Byte :=
  wordsBytes x.toList

/-- `Exec` of LOAD_IV (R172). -/
def loadIvResult (s : State) : CmdResult :=
  .ok { s.data with h := iv }

/-- `Exec` of IMPORT_HEX (R173): LEN, then the range, then the contents (R206). -/
def importHexResult (s : State) : CmdResult :=
  if s.opLen ≠ 64 then .error .malformedDigest
  else if !s.inRange s.opSrc 64 then .error .bufferRange
  else if (s.memRead s.opSrc 64).all isHexDigit then .ok { s.data with h := hexState (s.memRead s.opSrc 64) }
  else .error .malformedDigest

/-- `Exec` of IMPORT_BYTES (R174). -/
def importBytesResult (s : State) : CmdResult :=
  if !s.inRange s.opSrc 32 then .error .bufferRange
  else .ok { s.data with h := bytesState (s.memRead s.opSrc 32) }

/-- `Exec` of EXPORT_HEX (R175). -/
def exportHexResult (s : State) : CmdResult :=
  if !s.inRange s.opDst 64 then .error .bufferRange
  else .ok (s.data.memWrite s.opDst (stateHex s.h))

/-- `Exec` of EXPORT_BYTES (R176). -/
def exportBytesResult (s : State) : CmdResult :=
  if !s.inRange s.opDst 32 then .error .bufferRange
  else .ok (s.data.memWrite s.opDst (stateBytes s.h))

/-- LOAD_IV completes (R113, R172). -/
def execLoadIv (s : State) : Host.Outcome State Fault Refusal :=
  .next (s.complete (loadIvResult s))

/-- IMPORT_HEX completes (R113, R173). -/
def execImportHex (s : State) : Host.Outcome State Fault Refusal :=
  .next (s.complete (importHexResult s))

/-- IMPORT_BYTES completes (R113, R174). -/
def execImportBytes (s : State) : Host.Outcome State Fault Refusal :=
  .next (s.complete (importBytesResult s))

/-- EXPORT_HEX completes (R113, R175). -/
def execExportHex (s : State) : Host.Outcome State Fault Refusal :=
  .next (s.complete (exportHexResult s))

/-- EXPORT_BYTES completes (R113, R176). -/
def execExportBytes (s : State) : Host.Outcome State Fault Refusal :=
  .next (s.complete (exportBytesResult s))

end Sys2Proof.Machine
end

