-- ==== Sys2Proof/Machine/Schedule.lean ====
section
/-!
DEFINITION. The message scheduler and EXPAND (R140 to R142).
-/

namespace Sys2Proof.Machine

/-- `sigma0` (R141). -/
def sigma0 (x : Word) : Word :=
  rotr x 7 ^^^ rotr x 18 ^^^ (x >>> 3)

/-- `sigma1` (R141). -/
def sigma1 (x : Word) : Word :=
  rotr x 17 ^^^ rotr x 19 ^^^ (x >>> 10)

/-- `W[0..15]`: the block's bytes read as big-endian words (R140). -/
def blockWords (block : List Byte) : List Word :=
  (List.range 16).map fun i => be32At block (4 * i)

/-- `W[i] = W[i−16] + sigma0(W[i−15]) + W[i−7] + sigma1(W[i−2])` mod 2^32, for i the number of words so far (R140). -/
def nextWord (ws : List Word) : Word :=
  ws.getD (ws.length - 16) 0#32 + sigma0 (ws.getD (ws.length - 15) 0#32)
    + ws.getD (ws.length - 7) 0#32 + sigma1 (ws.getD (ws.length - 2) 0#32)

/-- Compute the next `n` schedule words, in increasing index (R140). -/
def extendSchedule : Nat → List Word → List Word
  | 0, ws => ws
  | n + 1, ws => extendSchedule n (ws ++ [nextWord ws])

/-- `Expand(block)`: W[0..63], for a block of 64 bytes (R140). -/
def expandBlock (block : List Byte) : List Word :=
  extendSchedule 48 (blockWords block)

/-- `Exec` of EXPAND (R142): the two ranges, then the 64 schedule words, big-endian, at DST. -/
def expandResult (s : State) : CmdResult :=
  if !s.inRange s.opSrc 64 then .error .bufferRange
  else if !s.inRange s.opDst 256 then .error .bufferRange
  else .ok (s.data.memWrite s.opDst (wordsBytes (expandBlock (s.memRead s.opSrc 64))))

/-- EXPAND completes (R113, R142). -/
def execExpand (s : State) : Host.Outcome State Fault Refusal :=
  .next (s.complete (expandResult s))

end Sys2Proof.Machine
end

