-- ==== Sys2Proof/Machine/Compression.lean ====
section
/-!
DEFINITION. The compression engine and COMPRESS (R150 to R154).
-/

namespace Sys2Proof.Machine

/-- `Sigma1` (R150). -/
def bigSigma1 (e : Word) : Word :=
  rotr e 6 ^^^ rotr e 11 ^^^ rotr e 25

/-- `Ch` (R150). -/
def ch (e f g : Word) : Word :=
  (e &&& f) ^^^ (~~~e &&& g)

/-- `Sigma0` (R150). -/
def bigSigma0 (a : Word) : Word :=
  rotr a 2 ^^^ rotr a 13 ^^^ rotr a 22

/-- `Maj` (R150). -/
def maj (a b c : Word) : Word :=
  (a &&& b) ^^^ (a &&& c) ^^^ (b &&& c)

/-- `temp1` of a round: h + Sigma1(e) + Ch(e, f, g) + K[t] + W[t] mod 2^32 (R151). -/
def roundTemp1 (kt wt : Word) (r : Working) : Word :=
  r.h + bigSigma1 r.e + ch r.e r.f r.g + kt + wt

/-- `temp2` of a round: Sigma0(a) + Maj(a, b, c) mod 2^32 (R151). -/
def roundTemp2 (r : Working) : Word :=
  bigSigma0 r.a + maj r.a r.b r.c

/-- One round (R151): every right-hand side reads the registers from before the round. -/
def round (t : Nat) (r : Working) (w : List Word) : Working :=
  { h := r.g
    g := r.f
    f := r.e
    e := r.d + roundTemp1 (kConst t) (w.getD t 0#32) r
    d := r.c
    c := r.b
    b := r.a
    a := roundTemp1 (kConst t) (w.getD t 0#32) r + roundTemp2 r }

/-- The working registers initialised from HashState (R43, R152). -/
def Working.ofHash (x : HashState) : Working :=
  { a := x.h0, b := x.h1, c := x.h2, d := x.h3, e := x.h4, f := x.h5, g := x.h6, h := x.h7 }

/-- The fold at a block's end: each state word plus its working register, mod 2^32 (R152). -/
def HashState.fold (x : HashState) (r : Working) : HashState :=
  { h0 := x.h0 + r.a, h1 := x.h1 + r.b, h2 := x.h2 + r.c, h3 := x.h3 + r.d,
    h4 := x.h4 + r.e, h5 := x.h5 + r.f, h6 := x.h6 + r.g, h7 := x.h7 + r.h }

/-- Rounds 0 to n−1 in increasing t (R49, R152). -/
def rounds (w : List Word) : Nat → Working → Working
  | 0, r => r
  | n + 1, r => round n (rounds w n r) w

/-- `Compress1(H, block)`: schedule, 64 rounds, fold (R152). -/
def compress1 (x : HashState) (block : List Byte) : HashState :=
  x.fold (rounds (expandBlock block) 64 (Working.ofHash x))

/-- `n` blocks in sequence: the state from block k feeds block k+1 (R153). -/
def compressBlocks : Nat → HashState → List Byte → HashState
  | 0, x, _ => x
  | n + 1, x, data => compressBlocks n (compress1 x (data.take 64)) (data.drop 64)

/-- `CompressN(H, data)` for len(data) = 64·N, N ≥ 0 (R153). -/
def compressN (x : HashState) (data : List Byte) : HashState :=
  compressBlocks (data.length / 64) x data

/-- `Exec` of COMPRESS (R154): the alignment of LEN before the range (R206), then H from its blocks. -/
def compressResult (s : State) : CmdResult :=
  if s.opLen % 64 ≠ 0 then .error .internalAlignment
  else if !s.inRange s.opSrc s.opLen then .error .bufferRange
  else .ok { s.data with h := compressN s.h (s.memRead s.opSrc s.opLen) }

/-- COMPRESS completes (R113, R154). -/
def execCompress (s : State) : Host.Outcome State Fault Refusal :=
  .next (s.complete (compressResult s))

end Sys2Proof.Machine
end

