-- ==== Sys2Proof/Machine/Lifecycle.lean ====
section
/-!
DEFINITION. NOP (R119): the command with no data effect.
-/

namespace Sys2Proof.Machine

/-- `Exec` of NOP returns H, BUF and OUTLEN as they are (R119). -/
def nopResult (s : State) : CmdResult :=
  .ok s.data

/-- NOP completes (R113, R119). -/
def execNop (s : State) : Host.Outcome State Fault Refusal :=
  .next (s.complete (nopResult s))

end Sys2Proof.Machine
end

