-- ==== Sys2Proof/Machine/Padding.lean ====
section
/-!
DEFINITION. The padding builder and PAD (R130 to R133).
-/

namespace Sys2Proof.Machine

/-- `z(L, P) = (55 − ((P + L) mod 64)) mod 64` (R130); 119 = 55 + 64 keeps the difference a natural number. -/
def padZeros (l p : Nat) : Nat :=
  (119 - (p + l) % 64) % 64

/-- `PadLen(L, P) = L + 1 + z(L, P) + 8` (R130). -/
def padLen (l p : Nat) : Nat :=
  l + 1 + padZeros l p + 8

/-- `PadBytes(m, P)`: the message, 0x80, z zero bytes, and the bit length mod 2^64 as 8 bytes (R131). -/
def padBytes (m : List Byte) (p : Nat) : List Byte :=
  m ++ [0x80#8] ++ List.replicate (padZeros m.length p) 0x00#8 ++ beBytes 8 (8 * (p + m.length) % 2 ^ 64)

/-- `Exec` of PAD (R133): the input range, then the output range, then the padded message at DST and its length in
OUTLEN. -/
def padResult (s : State) : CmdResult :=
  if !s.inRange s.opSrc s.opLen then .error .bufferRange
  else if !s.inRange s.opDst (padLen s.opLen s.opPrior) then .error .bufferRange
  else
    .ok { s.data.memWrite s.opDst (padBytes (s.memRead s.opSrc s.opLen) s.opPrior) with
          outlen := BitVec.ofNat 32 (padLen s.opLen s.opPrior) }

/-- PAD completes (R113, R133). -/
def execPad (s : State) : Host.Outcome State Fault Refusal :=
  .next (s.complete (padResult s))

end Sys2Proof.Machine
end

