-- ==== Sys2Proof/Machine/Dispatch.lean ====
section
/-!
DEFINITION. Dispatch (R118): one arm per command, each a direct call of that command's meaning.
-/

namespace Sys2Proof.Machine

/-- The Complete step of an accepted command whose word decoded to `i` (R113, R118). -/
def exec (i : Instr) (s : State) : Host.Outcome State Fault Refusal :=
  match i with
  | .nop => Sys2Proof.Machine.execNop s
  | .pad => Sys2Proof.Machine.execPad s
  | .expand => Sys2Proof.Machine.execExpand s
  | .compress => Sys2Proof.Machine.execCompress s
  | .loadIv => Sys2Proof.Machine.execLoadIv s
  | .importHex => Sys2Proof.Machine.execImportHex s
  | .importBytes => Sys2Proof.Machine.execImportBytes s
  | .exportHex => Sys2Proof.Machine.execExportHex s
  | .exportBytes => Sys2Proof.Machine.execExportBytes s

end Sys2Proof.Machine
end

