-- ==== Sys2Proof/Machine/Engine.lean ====
section
/-!
DEFINITION. The engine's step and who moves next (R20, R23, R113).
-/

namespace Sys2Proof.Machine

/-- **Complete** for the captured word (R113, R118): `Exec` of the command it decodes to, or ILLEGAL_COMMAND (R204). -/
def State.runCommand (s : State) : Host.Outcome State Fault Refusal :=
  match decodeCmd s.cmd.word with
  | .ok i => exec i s
  | .error _ => .next (s.failCommand .illegalCommand)

/-- Who moves next.
In phase IDLE only the host can (R216).
In a BUSY window the schedule says, and the engine moves when the host has nothing to do or the schedule is used up, so
every BUSY window ends (R113, R245). -/
def State.nextAgent (s : State) : Agent :=
  if s.busy then
    match s.inputs, s.turns with
    | _ :: _, .host :: _ => .host
    | _, _ => .engine
  else
    .host

/-- A step of a BUSY window uses up one turn of the schedule. -/
def State.spendTurn (s : State) : State :=
  if s.busy then { s with turns := s.turns.tail } else s

end Sys2Proof.Machine
end

