-- ==== Sys2Proof/Machine/Step.lean ====
section
/-!
DEFINITION. One step of the HXE and its host: one transaction, or one Complete (R23, R113).
-/

namespace Sys2Proof.Machine

/-- One step: the host's next action, or the engine's Complete (R20, R113). -/
def step (s : State) : Host.Outcome State Fault Refusal :=
  match s.nextAgent with
  | .host => .next s.spendTurn.hostTurn
  | .engine => s.spendTurn.runCommand

/-- The state in which the very next step runs the command word `w` (assumption 5): out of reset, `Write(CMD, w)` accepted
(R110), and the engine's turn. -/
def State.withFetchWord (s : State) (nbits w : Nat) : State :=
  { s.accept (BitVec.ofNat 32 (w % 2 ^ nbits)) with rstN := true, turns := .engine :: s.turns }

end Sys2Proof.Machine
end

