-- ==== Sys2Proof/Machine/Datapath.lean ====
section
/-!
DEFINITION. The sequenced form of COMPRESS (R43 to R45): the block and round counters, the schedule and the working
registers step by step, as an implementation that spreads the work over many cycles runs it (R113, R246).
`execCompress` computes the same H in one step.
-/

namespace Sys2Proof.Machine

/-- Before the first block: k = 0 (R45). -/
def State.startBlocks (s : State) : State :=
  { s with k := 0 }

/-- The start of block k: its schedule, the working registers from H, and t = 0 (R43 to R45, R152). -/
def State.loadBlock (s : State) : State :=
  { s with
    w := Vector.ofFn fun i => (expandBlock (s.memRead (s.opSrc + 64 * s.k) 64)).getD i.val 0#32
    work := Working.ofHash s.h
    t := 0 }

/-- Round t, then the round counter moves on (R45, R151). -/
def State.roundStep (s : State) : State :=
  { s with work := round s.t.val s.work s.w.toList, t := s.t + 1 }

/-- The end of block k: the working registers are folded into H, and the block counter moves on (R43, R45, R152). -/
def State.foldBlock (s : State) : State :=
  { s with h := s.h.fold s.work, k := s.k + 1 }

/-- `f` done `n` times, one after another. -/
def State.repeated (f : State → State) : Nat → State → State
  | 0, s => s
  | n + 1, s => State.repeated f n (f s)

/-- `n` rounds, one after another. -/
def State.runRounds (n : Nat) (s : State) : State :=
  State.repeated State.roundStep n s

/-- One block: load, 64 rounds, fold (R152). -/
def State.runBlock (s : State) : State :=
  (s.loadBlock.runRounds 64).foldBlock

/-- `n` blocks in increasing address order (R49, R153). -/
def State.runBlocks (n : Nat) (s : State) : State :=
  State.repeated State.runBlock n s

end Sys2Proof.Machine
end

