-- ==== Sys2Proof/Machine/HostAsm.lean ====
section
/-!
DEFINITION. The host assembly (R95 to R97): statements, and the transactions each stands for.
-/

namespace Sys2Proof.Machine

/-- The register operand of a base statement (R95): a name, `BUF+n`, or a numeric offset. -/
inductive AsmReg where
  | name (r : Reg)
  | buf (n : Nat)
  | offset (a : Offset)
  deriving DecidableEq, Repr

/-- `off(reg)` (R95): the register's offset, or 0x1000 + n for `BUF+n`. -/
def AsmReg.addr : AsmReg → Offset
  | .name r => r.offset
  | .buf n => BitVec.ofNat 13 (0x1000 + n)
  | .offset a => a

/-- The base statements (R95) and the pseudo-statements (R96). -/
inductive Stmt where
  /-- `WR reg, v`. -/
  | wr (r : AsmReg) (v : Word)
  /-- `RD reg`, the result discarded. -/
  | rd (r : AsmReg)
  /-- `RD reg, =v`: the program expects the value v. -/
  | rdExpect (r : AsmReg) (v : Word)
  /-- `POLL`. -/
  | poll
  /-- `WBUF n, "b0 b1 ..."`. -/
  | wbuf (n : Nat) (bytes : List Byte)
  /-- `WBUFS n, "text"`. -/
  | wbufs (n : Nat) (text : List Char)
  /-- `ISSUE op`. -/
  | issue (op : Word)
  /-- `NOP`. -/
  | nop
  /-- `PAD dst, src, len, prior`. -/
  | pad (dst src len : Word) (prior : BitVec 64)
  /-- `EXPAND dst, src`. -/
  | expand (dst src : Word)
  /-- `COMPRESS src, len`. -/
  | compress (src len : Word)
  /-- `LOAD_IV`. -/
  | loadIv
  /-- `IMPORT_HEX src, len`. -/
  | importHex (src len : Word)
  /-- `IMPORT_BYTES src`. -/
  | importBytes (src : Word)
  /-- `EXPORT_HEX dst`. -/
  | exportHex (dst : Word)
  /-- `EXPORT_BYTES dst`. -/
  | exportBytes (dst : Word)
  deriving DecidableEq, Repr

/-- `WR reg, v` as a transaction (R95). -/
def wrOp (r : AsmReg) (v : Word) : HostOp :=
  .txn (.write r.addr v)

/-- `WR` to a named register. -/
def wrReg (r : Reg) (v : Word) : HostOp :=
  wrOp (.name r) v

/-- The word writes of `WBUF n, bytes`: ceil(m/4) words, bytes past the last one 0x00 (R96). -/
def wbufOps (n : Nat) (bytes : List Byte) : List HostOp :=
  (List.range ((bytes.length + 3) / 4)).map fun j => wrOp (.buf (n + 4 * j)) (be32At bytes (4 * j))

/-- The expansion of each statement (R95, R96). -/
def Stmt.ops : Stmt → List HostOp
  | .wr r v => [wrOp r v]
  | .rd r => [.txn (.read r.addr)]
  | .rdExpect r _ => [.txn (.read r.addr)]
  | .poll => [.poll]
  | .wbuf n bytes => wbufOps n bytes
  | .wbufs n text => wbufOps n (text.map fun c => BitVec.ofNat 8 c.toNat)
  | .issue op => [wrReg .cmd op]
  | .nop => [wrReg .cmd 0x00#32, .poll]
  | .pad dst src len prior =>
    [wrReg .src src, wrReg .len len, wrReg .dst dst, wrReg .priorLo (prior.setWidth 32),
     wrReg .priorHi ((prior >>> 32).setWidth 32), wrReg .cmd 0x01#32, .poll]
  | .expand dst src => [wrReg .src src, wrReg .dst dst, wrReg .cmd 0x02#32, .poll]
  | .compress src len => [wrReg .src src, wrReg .len len, wrReg .cmd 0x03#32, .poll]
  | .loadIv => [wrReg .cmd 0x04#32, .poll]
  | .importHex src len => [wrReg .src src, wrReg .len len, wrReg .cmd 0x05#32, .poll]
  | .importBytes src => [wrReg .src src, wrReg .cmd 0x06#32, .poll]
  | .exportHex dst => [wrReg .dst dst, wrReg .cmd 0x07#32, .poll]
  | .exportBytes dst => [wrReg .dst dst, wrReg .cmd 0x08#32, .poll]

/-- `RD reg, =v` is met by a response whose read data is v; no other statement expects anything (R95). -/
def Stmt.metBy (st : Stmt) (r : Response) : Bool :=
  match st with
  | .rdExpect _ v => decide (r.rdata = some v)
  | _ => true

/-- `n` of `BUF+n` is a multiple of 4 inside the BUF region (R95). -/
def AsmReg.wf : AsmReg → Bool
  | .name _ => true
  | .buf n => n % 4 == 0 && decide (n < 4096)
  | .offset _ => true

/-- What R95 and R96 ask of a statement: `n` of `BUF+n` and of `WBUF` is a multiple of 4 inside the 4096-byte BUF region,
and the text of `WBUFS` is ASCII. -/
def Stmt.wf : Stmt → Bool
  | .wr r _ => r.wf
  | .rd r => r.wf
  | .rdExpect r _ => r.wf
  | .wbuf n bytes => n % 4 == 0 && decide (n + bytes.length ≤ 4096)
  | .wbufs n text => n % 4 == 0 && decide (n + text.length ≤ 4096) && text.all fun c => decide (c.toNat < 128)
  | _ => true

/-- A program's encoding: the transactions of its statements, in order (R97). -/
def programOps (p : List Stmt) : List HostOp :=
  p.flatMap Stmt.ops

end Sys2Proof.Machine
end

