-- ==== Sys2Proof/Safety.lean ====
section
/-!
DEFINITION. The predicates the statements are made of: how a command ends, what it leaves unchanged, and the invariant
every step keeps.
-/

namespace Sys2Proof.Machine

/-- Every BUF byte reads as before. -/
def SameBytes (s t : State) : Prop :=
  ∀ a, t.byte a = s.byte a

/-- Every BUF byte outside [lo, lo + n) reads as before. -/
def SameBytesOutside (s t : State) (lo n : Nat) : Prop :=
  ∀ a, a < lo ∨ lo + n ≤ a → t.byte a = s.byte a

/-- The registers and flags that no command writes (R29 to R34, R48, R209), and the outside world.
H, OUTLEN and BUF are said separately; the hidden registers are unspecified after a command (R42 to R45). -/
def KeepsHostSide (s t : State) : Prop :=
  t.cfg = s.cfg ∧ t.rstN = s.rstN ∧ t.ie = s.ie ∧ t.ovr = s.ovr ∧ t.src = s.src ∧ t.dst = s.dst ∧ t.len = s.len ∧
    t.priorLo = s.priorLo ∧ t.priorHi = s.priorHi ∧ t.bus = s.bus ∧ t.inputs = s.inputs ∧ t.turns = s.turns ∧
    t.epoch = s.epoch

/-- The end of every command (R114, R115): phase IDLE, so BUSY = 0; DONE = 1; ERR as given. -/
def EndsWith (t : State) (e : Option CmdError) : Prop :=
  t.phase = .idle ∧ t.done = true ∧ t.err = e

/-- `Complete` of command `i` answers a next state, successfully, with `post` true of it and every register that no
command writes unchanged. -/
def Succeeds (i : Instr) (s : State) (post : State → Prop) : Prop :=
  ∃ t, exec i s = .next t ∧ EndsWith t none ∧ KeepsHostSide s t ∧ post t

/-- `Complete` of command `i` answers a next state in which only STATUS changed, with error `e` (R114, R207). -/
def FailsWith (i : Instr) (s : State) (e : CmdError) : Prop :=
  ∃ t, exec i s = .next t ∧ EndsWith t (some e) ∧ KeepsHostSide s t ∧
    t.h = s.h ∧ t.outlen = s.outlen ∧ t.buf = s.buf ∧ SameBytes s t

/-- The visible state of a held reset (R50, R230). -/
def ResetValues (s : State) : Prop :=
  s.ie = false ∧ s.phase = .idle ∧ s.done = false ∧ s.ovr = false ∧ s.err = none ∧
    s.src = 0#32 ∧ s.dst = 0#32 ∧ s.len = 0#32 ∧ s.outlen = 0#32 ∧ s.priorLo = 0#32 ∧ s.priorHi = 0#32 ∧
    s.h = iv ∧ s.buf = []

/-- Captured operands are the operand registers (R112). -/
def OperandsCaptured (s : State) : Prop :=
  s.cmd.src = s.src ∧ s.cmd.dst = s.dst ∧ s.cmd.len = s.len ∧ s.cmd.prior = s.priorHi ++ s.priorLo

/-- The invariant of the HXE.
The configuration is legal (R8), BUF is canonical and holds only BUF's addresses (R60), OUTLEN is a length that fits BUF
(R32, R133), a BUSY window has DONE = 0, ERR = 0 and the operands captured (R110, R112), and a held reset keeps the reset
values (R230). -/
def State.Inv (s : State) : Prop :=
  s.cfg.wf = true ∧ s.buf.wf = true ∧ s.buf.within s.cfg.bufSize = true ∧ s.outlen.toNat ≤ s.cfg.bufSize ∧
    (s.phase = .busy → s.done = false ∧ s.err = none ∧ OperandsCaptured s) ∧
    (s.rstN = false → ResetValues s)

/-- An action that drives the reset line to a new level from a state (R230). -/
def HostOp.resets (op : HostOp) (s : State) : Prop :=
  op = .assertReset ∨ (op = .releaseReset ∧ s.rstN = false)

/-- The host's next action, when the host is the agent that moves. -/
def State.hostDoes (s : State) (op : HostOp) : Prop :=
  s.nextAgent = .host ∧ ∃ rest, s.inputs = op :: rest

/-- The end of `ISSUE` and `POLL` that began in `s` (R74, R96): idle with DONE = 1, the poll answered with this STATUS, the rest of
the host's actions still to come, and OVR, CTRL and the operand registers as they were. -/
def PolledIdle (s t : State) (rest : List HostOp) : Prop :=
  t.inputs = rest ∧ t.phase = .idle ∧ t.done = true ∧ t.bus = some { rdata := some t.statusWord, resp := .ok } ∧
    t.ovr = s.ovr ∧ t.ie = s.ie ∧ t.src = s.src ∧ t.dst = s.dst ∧ t.len = s.len ∧ t.priorLo = s.priorLo ∧
    t.priorHi = s.priorHi

/-- An offset whose write R40 drops while BUSY: CMD, SRC, DST, LEN, PRIOR_LO, PRIOR_HI, H0 to H7, a word of the BUF window. -/
def DroppedOffset (c : Config) (a : Offset) : Prop :=
  a = 0x00C#13 ∨ a = 0x010#13 ∨ a = 0x014#13 ∨ a = 0x018#13 ∨ a = 0x020#13 ∨ a = 0x024#13 ∨
    (0x040 ≤ a.toNat ∧ a.toNat ≤ 0x05C ∧ a.toNat % 4 = 0) ∨
    (0x1000 ≤ a.toNat ∧ a.toNat % 4 = 0 ∧ a.toNat + 4 ≤ 0x1000 + c.bufSize)

/-- An offset whose read R41 leaves unspecified while BUSY: H0 to H7, OUTLEN, a word of the BUF window. -/
def UnspecifiedOffset (c : Config) (a : Offset) : Prop :=
  a = 0x01C#13 ∨ (0x040 ≤ a.toNat ∧ a.toNat ≤ 0x05C ∧ a.toNat % 4 = 0) ∨
    (0x1000 ≤ a.toNat ∧ a.toNat % 4 = 0 ∧ a.toNat + 4 ≤ 0x1000 + c.bufSize)

/-- An offset the register map marks reserved, or one that is not a multiple of 4 (R24, R36). -/
def UnmappedOffset (c : Config) (a : Offset) : Prop :=
  a.toNat % 4 ≠ 0 ∨ (0x02C ≤ a.toNat ∧ a.toNat ≤ 0x03C) ∨ (0x060 ≤ a.toNat ∧ a.toNat ≤ 0x0FFC) ∨
    0x1000 + c.bufSize ≤ a.toNat

end Sys2Proof.Machine
end

