-- ==== Sys2Proof/Certificates/Slice0/Obligations.lean ====
section
/-!
DEFINITION. The statements for the provers, in the order of the spec's files.
-/

open Sys2Proof Sys2Proof.Machine

/-! ### Operators and byte order (R11, R12, R61) -/

/-- R11: `rotr(x, n)` for 0 < n < 32 moves bit (i + n) mod 32 to bit i. -/
def Obligations.RotrMovesEachBit : Prop :=
  ∀ (x : Word) (n i : Nat), 0 < n → n < 32 → i < 32 → (rotr x n).getLsbD i = x.getLsbD ((i + n) % 32)

/-- R12: `BE32` weighs its four bytes from 2^24 down, `BE_N` has N bytes of which byte i has weight 256^(N−1−i), and `BE_4` and
`BE32` are inverse to each other. -/
def Obligations.BigEndianBytesAndWordAgree : Prop :=
  (∀ b0 b1 b2 b3 : Byte,
    (be32 b0 b1 b2 b3).toNat = b0.toNat * 2 ^ 24 + b1.toNat * 2 ^ 16 + b2.toNat * 2 ^ 8 + b3.toNat) ∧
  (∀ n v : Nat, (beBytes n v).length = n) ∧
  (∀ n v i : Nat, i < n → ((beBytes n v).getD i 0#8).toNat = v / 256 ^ (n - 1 - i) % 256) ∧
  (∀ x : Word, be32At (beBytes 4 x.toNat) 0 = x) ∧
  (∀ b0 b1 b2 b3 : Byte, beBytes 4 (be32 b0 b1 b2 b3).toNat = [b0, b1, b2, b3])

/-! ### Encoding (R90 to R93) -/

/-- R92: the words of the opcode map, written out from it, decode to their commands. -/
def Obligations.CommandWordsDecode : Prop :=
  decodeCmd 0x00000000#32 = .ok .nop ∧ decodeCmd 0x00000001#32 = .ok .pad ∧ decodeCmd 0x00000002#32 = .ok .expand ∧
  decodeCmd 0x00000003#32 = .ok .compress ∧ decodeCmd 0x00000004#32 = .ok .loadIv ∧
  decodeCmd 0x00000005#32 = .ok .importHex ∧ decodeCmd 0x00000006#32 = .ok .importBytes ∧
  decodeCmd 0x00000007#32 = .ok .exportHex ∧ decodeCmd 0x00000008#32 = .ok .exportBytes

/-- R90, R92: a word decodes to a command exactly when it is that command's encoding, so no bit of a word is dropped and
each command has one word. -/
def Obligations.DecodesExactlyItsEncoding : Prop :=
  ∀ (w : Word) (i : Instr), decodeCmd w = .ok i ↔ w = encode i

/-- Decoding the encoding of a well-formed command gives it back, through the table's numbering of bits too. -/
def Obligations.DecodeEncodeRoundTrip : Prop :=
  ∀ i : Instr, i.wf = true → decodeCmd (encode i) = .ok i ∧ decodeTableWord 32 (encode i).toNat = some i

/-- R93, R204: a word is ILLEGAL exactly when RSVD ≠ 0 or OP ≥ 0x09, and the Complete step of an illegal word answers a next
state with ERR = ILLEGAL_COMMAND in which nothing but STATUS changed. -/
def Obligations.IllegalWordsFailWithIllegalCommand : Prop :=
  (∀ w : Word, (∃ e, decodeCmd w = .error e) ↔ (w.extractLsb' 8 24 ≠ 0#24 ∨ 0x09 ≤ (w.extractLsb' 0 8).toNat)) ∧
  ∀ s : State, s.nextAgent = .engine →
    (s.cmd.word.extractLsb' 8 24 ≠ 0#24 ∨ 0x09 ≤ (s.cmd.word.extractLsb' 0 8).toNat) →
    ∃ t, step s = .next t ∧ EndsWith t (some .illegalCommand) ∧ KeepsHostSide { s with turns := s.turns.tail } t ∧
      t.h = s.h ∧ t.outlen = s.outlen ∧ t.buf = s.buf ∧ SameBytes s t

/-! ### Steps and agents (R20, R23, R113, R216) -/

/-- R113, R118: when the engine moves and the captured word decodes to `i`, the step is `exec i`, one turn of the schedule
being used up.
The schedule and who moves next are the model's own form of "after any number of host transactions" (assumption 1). -/
def Obligations.StepRunsDecodedCommand : Prop :=
  ∀ (s : State) (i : Instr), s.nextAgent = .engine → decodeCmd s.cmd.word = .ok i →
    step s = exec i { s with turns := s.turns.tail }

/-- R23, R216: when the host moves, the step is the host's next action alone; in phase IDLE no turn is used up, and with no host
transaction waiting nothing happens.
The order of turns is assumption 1. -/
def Obligations.StepPerformsOneHostAction : Prop :=
  (∀ (s : State) (op : HostOp) (rest : List HostOp), s.inputs = op :: rest →
    (s.phase = .idle → step s = .next (({ s with inputs := rest } : State).hostStep op)) ∧
    (s.phase = .busy → s.turns.head? = some .host →
      step s = .next (({ s with inputs := rest, turns := s.turns.tail } : State).hostStep op))) ∧
  (∀ s : State, s.phase = .idle → s.inputs = [] → step s = .next s)

/-- The word placed by `withFetchWord` is the one the next step runs, on any state (assumption 5). -/
def Obligations.FetchWordRunsNext : Prop :=
  ∀ (s : State) (w : Nat) (i : Instr), decodeTableWord 32 w = some i →
    step (s.withFetchWord 32 w) = exec i { s.accept (BitVec.ofNat 32 (w % 2 ^ 32)) with rstN := true }

/-- R113, R67, R207: every step answers a next state. No bus error, command error, reset or unwritten byte stops the machine. -/
def Obligations.StepAlwaysAnswersNext : Prop :=
  ∀ s : State, ∃ t, step s = .next t

/-! ### The register map and host accesses (R24 to R41, R61, R67) -/

/-- R24: the offset column of the register map, written out; an offset selects a register exactly when it is that register's
offset; it selects the BUF word at that place exactly when it is 0x1000 or more, a multiple of 4, with all four bytes inside
BUF_SIZE; and, for a legal BUF_SIZE, it selects nothing exactly when it is reserved or misaligned (R36). -/
def Obligations.OffsetsSelectTheRegisterMap : Prop :=
  (Reg.id.offset = 0x000#13 ∧ Reg.ctrl.offset = 0x004#13 ∧ Reg.status.offset = 0x008#13 ∧ Reg.cmd.offset = 0x00C#13 ∧
    Reg.src.offset = 0x010#13 ∧ Reg.dst.offset = 0x014#13 ∧ Reg.len.offset = 0x018#13 ∧ Reg.outlen.offset = 0x01C#13 ∧
    Reg.priorLo.offset = 0x020#13 ∧ Reg.priorHi.offset = 0x024#13 ∧ Reg.bufsz.offset = 0x028#13 ∧
    (Reg.h 0).offset = 0x040#13 ∧ (Reg.h 1).offset = 0x044#13 ∧ (Reg.h 2).offset = 0x048#13 ∧
    (Reg.h 3).offset = 0x04C#13 ∧ (Reg.h 4).offset = 0x050#13 ∧ (Reg.h 5).offset = 0x054#13 ∧
    (Reg.h 6).offset = 0x058#13 ∧ (Reg.h 7).offset = 0x05C#13) ∧
  (∀ (c : Config) (a : Offset) (r : Reg), decodeOffset c a = some (.reg r) ↔ a = r.offset) ∧
  (∀ (c : Config) (a : Offset) (n : Nat), decodeOffset c a = some (.bufWord n) ↔
    a.toNat = 0x1000 + n ∧ n % 4 = 0 ∧ n + 4 ≤ c.bufSize) ∧
  (∀ (c : Config) (a : Offset), c.wf = true → (decodeOffset c a = none ↔ UnmappedOffset c a))

/-- R36, R67: a transaction to a reserved or misaligned offset gets response ERR, a read of one returns 0, and no state
changes, STATUS.OVR included. -/
def Obligations.UnmappedAccessGetsBusError : Prop :=
  ∀ (s : State) (a : Offset) (v : Word), s.rstN = true → UnmappedOffset s.cfg a →
    s.transact (.read a) = { s with bus := some { rdata := some 0x00000000#32, resp := .err } } ∧
    s.transact (.write a v) = { s with bus := some { rdata := none, resp := .err } }

/-- R25 to R37: what a read of each register returns while BUSY = 0, and that a read changes nothing but the response.
`H[i]` names word i of the eight (R13, R35). -/
def Obligations.IdleReadsReturnRegisters : Prop :=
  (∀ (x : HashState) (i : Fin 8), x.get i = x.toList.getD i.val 0#32) ∧
  ∀ s : State, s.rstN = true → s.phase = .idle →
    ∀ (r : Reg) (v : Word),
      (r = .id ∧ v = 0x48584501#32) ∨ (r = .cmd ∧ v = 0#32) ∨ (r = .src ∧ v = s.src) ∨ (r = .dst ∧ v = s.dst) ∨
      (r = .len ∧ v = s.len) ∨ (r = .outlen ∧ v = s.outlen) ∨ (r = .priorLo ∧ v = s.priorLo) ∨
      (r = .priorHi ∧ v = s.priorHi) ∨ (r = .bufsz ∧ v = BitVec.ofNat 32 s.cfg.bufSize) ∨
      (r = .ctrl ∧ v = s.ctrlWord) ∨ (r = .status ∧ v = s.statusWord) ∨
      (∃ i : Fin 8, r = .h i ∧ v = s.h.toList.getD i.val 0#32) →
      s.transact (.read r.offset) = { s with bus := some { rdata := some v, resp := .ok } }

/-- R26, R27, R42: the bits of CTRL and STATUS as read: IE; BUSY, DONE, OVR, ERR; every reserved bit 0. -/
def Obligations.ControlAndStatusBits : Prop :=
  ∀ s : State,
    (∀ j : Nat, s.ctrlWord.getLsbD j = (j == 0 && s.ie)) ∧
    s.statusWord.getLsbD 0 = decide (s.phase = .busy) ∧ s.statusWord.getLsbD 1 = s.done ∧
    s.statusWord.getLsbD 2 = s.ovr ∧ s.statusWord.getLsbD 3 = false ∧
    (s.statusWord.extractLsb' 4 4).toNat =
      (match s.err with
        | none => 0
        | some .malformedDigest => 1
        | some .internalAlignment => 3
        | some .illegalCommand => 4
        | some .bufferRange => 5) ∧
    (∀ j : Nat, 8 ≤ j → s.statusWord.getLsbD j = false)

/-- R39, R35: a host write while BUSY = 0 to SRC, DST, LEN, PRIOR_LO, PRIOR_HI or Hi stores the whole word, the next read
returns it, and no other register, no BUF byte and nothing else of the HXE changes. -/
def Obligations.IdleOperandWriteStores : Prop :=
  ∀ (s : State) (r : Reg) (v : Word), s.rstN = true → s.phase = .idle →
    (r = .src ∨ r = .dst ∨ r = .len ∨ r = .priorLo ∨ r = .priorHi ∨ ∃ i : Fin 8, r = .h i) →
    ((s.transact (.write r.offset v)).transact (.read r.offset)).bus = some { rdata := some v, resp := .ok } ∧
    (s.transact (.write r.offset v)).readReg r = v ∧
    (∀ r' : Reg, r' ≠ r → (s.transact (.write r.offset v)).readReg r' = s.readReg r') ∧
    SameBytes s (s.transact (.write r.offset v)) ∧
    (s.transact (.write r.offset v)).phase = .idle ∧ (s.transact (.write r.offset v)).cmd = s.cmd ∧
    (s.transact (.write r.offset v)).bus = some { rdata := none, resp := .ok }

/-- R61: while BUSY = 0 the host word at 0x1000 + 4j is BUF bytes 4j to 4j + 3, big-endian, for reads and for writes. A read
changes nothing but the response (R37, R70); a write changes no other byte, no register and nothing else, with response OK. -/
def Obligations.BufWindowIsBigEndian : Prop :=
  ∀ (s : State) (j : Nat) (v : Word), s.cfg.wf = true → s.rstN = true → s.phase = .idle → j < s.cfg.bufSize / 4 →
    s.transact (.read (BitVec.ofNat 13 (0x1000 + 4 * j))) =
      { s with bus := some {
          rdata := some (be32 (s.byte (4 * j)) (s.byte (4 * j + 1)) (s.byte (4 * j + 2)) (s.byte (4 * j + 3)))
          resp := .ok } } ∧
    ∃ buf, s.transact (.write (BitVec.ofNat 13 (0x1000 + 4 * j)) v) =
        { s with buf := buf, bus := some { rdata := none, resp := .ok } } ∧
      ({ s with buf := buf } : State).memRead (4 * j) 4 =
        [v.extractLsb' 24 8, v.extractLsb' 16 8, v.extractLsb' 8 8, v.extractLsb' 0 8] ∧
      SameBytesOutside s { s with buf := buf } (4 * j) 4 ∧
      (∀ r : Reg, ({ s with buf := buf } : State).readReg r = s.readReg r)

/-- R26, R27, R38: writes that are performed whether or not BUSY = 1. ID, OUTLEN and BUFSZ ignore them; CTRL takes bit 0;
STATUS clears DONE where bit 1 is 1 and OVR where bit 2 is 1. All other bits are ignored, nothing else changes, and the
response is OK. -/
def Obligations.ControlWritesAtAnyTime : Prop :=
  ∀ (s : State) (v : Word), s.rstN = true →
    (∀ r : Reg, r = .id ∨ r = .outlen ∨ r = .bufsz →
      s.transact (.write r.offset v) = { s with bus := some { rdata := none, resp := .ok } }) ∧
    s.transact (.write 0x004#13 v) = { s with ie := v.getLsbD 0, bus := some { rdata := none, resp := .ok } } ∧
    s.transact (.write 0x008#13 v) =
      { s with done := s.done && !v.getLsbD 1, ovr := s.ovr && !v.getLsbD 2,
               bus := some { rdata := none, resp := .ok } }

/-- R40, R111: a host write while BUSY = 1 to CMD, SRC, DST, LEN, PRIOR_LO, PRIOR_HI, any Hi or any word of the BUF window is
dropped: the response is OK, OVR is set, and nothing else changes, so no command is queued and the executing one is
unaffected. Writes to CTRL and STATUS are performed, and writes to ID, OUTLEN and BUFSZ are ignored without setting OVR. -/
def Obligations.BusyWritesAreDropped : Prop :=
  ∀ (s : State) (v : Word), s.rstN = true → s.phase = .busy →
    (∀ a : Offset, DroppedOffset s.cfg a →
      s.transact (.write a v) = { s with ovr := true, bus := some { rdata := none, resp := .ok } }) ∧
    s.transact (.write 0x004#13 v) = { s with ie := v.getLsbD 0, bus := some { rdata := none, resp := .ok } } ∧
    s.transact (.write 0x008#13 v) =
      { s with done := s.done && !v.getLsbD 1, ovr := s.ovr && !v.getLsbD 2,
               bus := some { rdata := none, resp := .ok } } ∧
    (∀ a : Offset, a = 0x000#13 ∨ a = 0x01C#13 ∨ a = 0x028#13 →
      s.transact (.write a v) = { s with bus := some { rdata := none, resp := .ok } })

/-- R41: a host read while BUSY = 1 of any Hi, of OUTLEN or of a BUF word returns a fresh free value with response OK, and
reads of the other registers return their values; neither changes any state of the HXE.
The free value is `Config.freeWord` at the run's draw counter, of which nothing is known (assumption 3). -/
def Obligations.BusyReads : Prop :=
  ∀ (s : State) (a : Offset), s.rstN = true → s.phase = .busy →
    (UnspecifiedOffset s.cfg a →
      s.transact (.read a) =
        { s with bus := some { rdata := some (Config.freeWord s.draws 0), resp := .ok }, draws := s.draws + 1 }) ∧
    (∀ (r : Reg) (v : Word), a = r.offset →
      (r = .id ∧ v = 0x48584501#32) ∨ (r = .ctrl ∧ v = s.ctrlWord) ∨ (r = .status ∧ v = s.statusWord) ∨
      (r = .cmd ∧ v = 0#32) ∨ (r = .src ∧ v = s.src) ∨ (r = .dst ∧ v = s.dst) ∨ (r = .len ∧ v = s.len) ∨
      (r = .priorLo ∧ v = s.priorLo) ∨ (r = .priorHi ∧ v = s.priorHi) ∨
      (r = .bufsz ∧ v = BitVec.ofNat 32 s.cfg.bufSize) →
      s.transact (.read a) = { s with bus := some { rdata := some v, resp := .ok } })

/-- R69: nothing the host reads while BUSY = 1 depends on H, OUTLEN, BUF or the hidden registers: two busy states that differ
in those alone answer every transaction alike.
For reads of H, OUTLEN and BUF this rests on the model's own choice (assumption 3): R69 excepts "reading an unspecified
value" and R41 leaves that value open, where the model draws `Config.freeWord` of the draw counter alone.
The same choice gives the answer while `rst_n` is 0. -/
def Obligations.BusyWindowRevealsNothing : Prop :=
  ∀ (s : State) (tx : Txn) (h : HashState) (buf : Memory) (outlen : Word) (cmd : Command) (work : Working)
    (w : Vector Word 64) (k : Nat) (t : Fin 64) (epoch : Nat), s.phase = .busy →
    (({ s with h := h, buf := buf, outlen := outlen, cmd := cmd, work := work, w := w, k := k, t := t,
               epoch := epoch } : State).transact tx).bus = (s.transact tx).bus

/-- R69: no host action but a reset, taken while BUSY = 1, changes what the command reads or writes: H, OUTLEN, BUF, the
captured command and the operand registers. -/
def Obligations.BusyWindowHostChangesNoCommandState : Prop :=
  ∀ (s : State) (op : HostOp), s.phase = .busy → ¬ op.resets s →
    (s.hostStep op).h = s.h ∧ (s.hostStep op).outlen = s.outlen ∧ (s.hostStep op).buf = s.buf ∧
    SameBytes s (s.hostStep op) ∧ (s.hostStep op).cmd = s.cmd ∧ (s.hostStep op).src = s.src ∧
    (s.hostStep op).dst = s.dst ∧ (s.hostStep op).len = s.len ∧ (s.hostStep op).priorLo = s.priorLo ∧
    (s.hostStep op).priorHi = s.priorHi ∧ (s.hostStep op).phase = .busy

/-! ### The life of a command (R110 to R115, R207, R210) -/

/-- R110: a CMD write while IDLE captures the word and the operand registers, sets BUSY and clears DONE and ERR, with
response OK; OVR, CTRL and everything else are unchanged, and every word is accepted. The operands the command then computes
with are SRC, DST, LEN and PRIOR_HI · 2^32 + PRIOR_LO as unsigned numbers (R91). -/
def Obligations.CmdWriteIsAccepted : Prop :=
  ∀ (s : State) (w : Word), s.rstN = true → s.phase = .idle →
    ∃ p : BitVec 64, p.toNat = s.priorHi.toNat * 2 ^ 32 + s.priorLo.toNat ∧
      s.transact (.write 0x00C#13 w) =
        { s with phase := .busy, cmd := { word := w, src := s.src, dst := s.dst, len := s.len, prior := p },
                 done := false, err := none, bus := some { rdata := none, resp := .ok } } ∧
      (s.transact (.write 0x00C#13 w)).opSrc = s.src.toNat ∧ (s.transact (.write 0x00C#13 w)).opDst = s.dst.toNat ∧
      (s.transact (.write 0x00C#13 w)).opLen = s.len.toNat ∧
      (s.transact (.write 0x00C#13 w)).opPrior = s.priorHi.toNat * 2 ^ 32 + s.priorLo.toNat

/-- R114, R207: a command that ends with an error changed nothing but STATUS. -/
def Obligations.FailedCommandChangesOnlyStatus : Prop :=
  ∀ (i : Instr) (s t : State), exec i s = .next t → t.err ≠ none →
    EndsWith t t.err ∧ KeepsHostSide s t ∧ t.h = s.h ∧ t.outlen = s.outlen ∧ t.buf = s.buf

/-- R113: what a command computes depends on the captured command, H, BUF and OUTLEN alone: two states of one configuration
that agree on them, whatever else they hold, end with the same H, BUF, OUTLEN and ERR. -/
def Obligations.ExecReadsOnlyItsInputs : Prop :=
  ∀ (i : Instr) (s s' t t' : State), s'.cfg = s.cfg → s'.cmd = s.cmd → s'.h = s.h → s'.buf = s.buf →
    s'.outlen = s.outlen → s'.epoch = s.epoch → exec i s = .next t → exec i s' = .next t' →
    t'.h = t.h ∧ t'.buf = t.buf ∧ t'.outlen = t.outlen ∧ t'.err = t.err

/-- R91, R92: the operands each command lists, and that an operand a command does not list is ignored, whatever its value.
That the hidden registers, unspecified after a command, come out alike too is the model's own choice (assumption 3). -/
def Obligations.UnlistedOperandsAreIgnored : Prop :=
  (operandsRead .nop = [] ∧ operandsRead .pad = [.src, .len, .dst, .prior] ∧ operandsRead .expand = [.src, .dst] ∧
    operandsRead .compress = [.src, .len] ∧ operandsRead .loadIv = [] ∧ operandsRead .importHex = [.src, .len] ∧
    operandsRead .importBytes = [.src] ∧ operandsRead .exportHex = [.dst] ∧ operandsRead .exportBytes = [.dst]) ∧
  ∀ (i : Instr) (o : Operand) (v : BitVec 64) (s : State), o ∉ operandsRead i →
    exec i { s with cmd := s.cmd.withOperand o v } = exec i s

/-- R29 to R31, R33: the engine never writes SRC, DST, LEN, PRIOR_LO or PRIOR_HI, nor CTRL. -/
def Obligations.EngineNeverWritesOperandRegisters : Prop :=
  ∀ s t : State, s.nextAgent = .engine → step s = .next t →
    t.src = s.src ∧ t.dst = s.dst ∧ t.len = s.len ∧ t.priorLo = s.priorLo ∧ t.priorHi = s.priorHi ∧ t.ie = s.ie

/-- R32: OUTLEN changes only at the Complete of a PAD that succeeds, which sets it to PadLen, or by a reset. -/
def Obligations.OnlyPadWritesOutlen : Prop :=
  ∀ s t : State, step s = .next t → t.outlen ≠ s.outlen →
    (s.nextAgent = .engine ∧ decodeCmd s.cmd.word = .ok .pad ∧ t.err = none ∧
      t.outlen = BitVec.ofNat 32 (padLen s.opLen s.opPrior)) ∨
    (∃ op, s.hostDoes op ∧ op.resets s)

/-- R209: OVR is set by any write dropped while BUSY = 1 and by nothing else; once set it stays set until a host STATUS write
with bit 2 set or a reset, so acceptance and completion do not touch it; and the write that sets it does not change `irq`. -/
def Obligations.OvrIsStickyAndSetByDroppedWrites : Prop :=
  ∀ s t : State, step s = .next t →
    (s.ovr = true → t.ovr = false →
      ∃ op, s.hostDoes op ∧ (op.resets s ∨ ∃ v : Word, op = .txn (.write 0x008#13 v) ∧ v.getLsbD 2 = true)) ∧
    (s.ovr = false → t.ovr = true →
      s.phase = .busy ∧ (∃ a v, s.hostDoes (.txn (.write a v)) ∧ DroppedOffset s.cfg a) ∧ t.irq = s.irq) ∧
    (∀ (a : Offset) (v : Word), s.rstN = true → s.phase = .busy → s.hostDoes (.txn (.write a v)) →
      DroppedOffset s.cfg a → t.ovr = true)

/-- R27, R42: DONE becomes 1 only by the engine's Complete, and becomes 0 only by a host STATUS write with bit 1 set, by
acceptance of a command, or by a reset. -/
def Obligations.DoneChangesOnlyAsListed : Prop :=
  ∀ s t : State, step s = .next t →
    (s.done = false → t.done = true → s.nextAgent = .engine) ∧
    (s.done = true → t.done = false →
      ∃ op, s.hostDoes op ∧ (op.resets s ∨ (∃ v : Word, op = .txn (.write 0x008#13 v) ∧ v.getLsbD 1 = true) ∨
        (s.phase = .idle ∧ ∃ w : Word, op = .txn (.write 0x00C#13 w))))

/-- R42, R110, R113, R231: the phase becomes BUSY only by a CMD write, and becomes IDLE only by the engine's Complete or by a
reset, which leaves DONE at 0. -/
def Obligations.PhaseChangesOnlyAsListed : Prop :=
  ∀ s t : State, step s = .next t →
    (s.phase = .idle → t.phase = .busy → ∃ w : Word, s.hostDoes (.txn (.write 0x00C#13 w))) ∧
    (s.phase = .busy → t.phase = .idle →
      (s.nextAgent = .engine ∧ t.done = true) ∨ (∃ op, s.hostDoes op ∧ op.resets s ∧ t.done = false))

/-- R210: `irq` after each event that concerns it. Every Complete raises it if IE = 1, be it of a command that succeeds, of one
that fails or of an ILLEGAL word; acceptance and a STATUS write with bit 1 set clear it; a CTRL write with bit 0 clear masks it;
a bus error, of a read or of a write, leaves it. Who moves is the model's schedule (assumption 1). -/
def Obligations.IrqFollowsCompletionAndEnable : Prop :=
  (∀ (i : Instr) (s t : State), exec i s = .next t → t.irq = s.ie) ∧
  (∀ s t : State, s.nextAgent = .engine → step s = .next t → t.irq = s.ie) ∧
  (∀ (s : State) (w : Word), s.rstN = true → s.phase = .idle → (s.transact (.write 0x00C#13 w)).irq = false) ∧
  (∀ (s : State) (v : Word), s.rstN = true → v.getLsbD 1 = true → (s.transact (.write 0x008#13 v)).irq = false) ∧
  (∀ (s : State) (v : Word), s.rstN = true → v.getLsbD 0 = false → (s.transact (.write 0x004#13 v)).irq = false) ∧
  (∀ (s : State) (a : Offset) (v : Word), s.rstN = true → UnmappedOffset s.cfg a →
    (s.transact (.read a)).irq = s.irq ∧ (s.transact (.write a v)).irq = s.irq)

/-! ### The nine commands, each with its errors and its frame -/

/-- R119: NOP succeeds on every state and changes neither H, BUF nor OUTLEN; its word is 0x0000_0000 alone of those with OP 0. -/
def Obligations.NopHasNoDataEffect : Prop :=
  (∀ w : Word, w.extractLsb' 0 8 = 0x00#8 → (decodeCmd w = .ok .nop ↔ w = 0x00000000#32)) ∧
  ∀ s : State, Succeeds .nop s fun t => t.h = s.h ∧ t.outlen = s.outlen ∧ t.buf = s.buf ∧ SameBytes s t

/-- R133: PAD. Where both ranges fit, BUF[DST..DST+n) is the padded message, read before it is written, OUTLEN is n, and H and
every other byte are unchanged; otherwise BUFFER_RANGE. -/
def Obligations.PadWritesPaddedMessage : Prop :=
  decodeCmd 0x00000001#32 = .ok .pad ∧ ∀ s : State,
    (s.opSrc + s.opLen ≤ s.cfg.bufSize ∧ s.opDst + padLen s.opLen s.opPrior ≤ s.cfg.bufSize →
      Succeeds .pad s fun t =>
        t.memRead s.opDst (padLen s.opLen s.opPrior) = padBytes (s.memRead s.opSrc s.opLen) s.opPrior ∧
        SameBytesOutside s t s.opDst (padLen s.opLen s.opPrior) ∧
        t.outlen = BitVec.ofNat 32 (padLen s.opLen s.opPrior) ∧
        (s.cfg.wf = true → t.outlen.toNat = padLen s.opLen s.opPrior) ∧ t.h = s.h) ∧
    (¬ (s.opSrc + s.opLen ≤ s.cfg.bufSize ∧ s.opDst + padLen s.opLen s.opPrior ≤ s.cfg.bufSize) →
      FailsWith .pad s .bufferRange)

/-- R142: EXPAND. Where both ranges fit, the 256 bytes at DST are the schedule of the block at SRC, big-endian, read before it
is written, and H, OUTLEN and every other byte are unchanged; otherwise BUFFER_RANGE. -/
def Obligations.ExpandWritesSchedule : Prop :=
  decodeCmd 0x00000002#32 = .ok .expand ∧ ∀ s : State,
    (s.opSrc + 64 ≤ s.cfg.bufSize ∧ s.opDst + 256 ≤ s.cfg.bufSize →
      Succeeds .expand s fun t =>
        (∀ i : Nat, i < 64 →
          t.memRead (s.opDst + 4 * i) 4 = beBytes 4 ((expandBlock (s.memRead s.opSrc 64)).getD i 0#32).toNat) ∧
        SameBytesOutside s t s.opDst 256 ∧ t.h = s.h ∧ t.outlen = s.outlen) ∧
    (¬ (s.opSrc + 64 ≤ s.cfg.bufSize ∧ s.opDst + 256 ≤ s.cfg.bufSize) → FailsWith .expand s .bufferRange)

/-- R154: COMPRESS. INTERNAL_ALIGNMENT when LEN is no multiple of 64, whatever SRC is; else BUFFER_RANGE when the blocks do not
fit; else H is the compression of the blocks from H, LEN = 0 included, and OUTLEN and every byte of BUF are unchanged. -/
def Obligations.CompressUpdatesChainingState : Prop :=
  decodeCmd 0x00000003#32 = .ok .compress ∧ ∀ s : State,
    (s.opLen % 64 ≠ 0 → FailsWith .compress s .internalAlignment) ∧
    (s.opLen % 64 = 0 → ¬ s.opSrc + s.opLen ≤ s.cfg.bufSize → FailsWith .compress s .bufferRange) ∧
    (s.opLen % 64 = 0 → s.opSrc + s.opLen ≤ s.cfg.bufSize →
      Succeeds .compress s fun t =>
        t.h = compressN s.h (s.memRead s.opSrc s.opLen) ∧ t.outlen = s.outlen ∧ t.buf = s.buf ∧ SameBytes s t ∧
        (s.opLen = 0 → t.h = s.h))

/-- R172: LOAD_IV succeeds on every state: H is IV, which is H at reset, and OUTLEN and every byte of BUF are unchanged. -/
def Obligations.LoadIvSetsInitialValue : Prop :=
  decodeCmd 0x00000004#32 = .ok .loadIv ∧ ∀ s : State, Succeeds .loadIv s fun t =>
    t.h.toList = [0x6a09e667#32, 0xbb67ae85#32, 0x3c6ef372#32, 0xa54ff53a#32, 0x510e527f#32, 0x9b05688c#32,
      0x1f83d9ab#32, 0x5be0cd19#32] ∧
    t.h = State.reset.h ∧ t.outlen = s.outlen ∧ t.buf = s.buf ∧ SameBytes s t

/-- R173: IMPORT_HEX. MALFORMED_DIGEST when LEN ≠ 64, whatever SRC is; else BUFFER_RANGE when the text does not fit; else
MALFORMED_DIGEST when one of the 64 bytes is no hex digit; else H[i] is the number of the i-th group of eight digits, most
significant first, and OUTLEN and every byte of BUF are unchanged.
The digits are '0' to '9', 'a' to 'f' and 'A' to 'F' with the values of R170, and every other byte is none. -/
def Obligations.ImportHexParsesDigest : Prop :=
  decodeCmd 0x00000005#32 = .ok .importHex ∧
  (∀ v : Nat, v < 10 → hexVal (BitVec.ofNat 8 (0x30 + v)) = some v) ∧
  (∀ v : Nat, v < 6 → hexVal (BitVec.ofNat 8 (0x61 + v)) = some (10 + v)) ∧
  (∀ v : Nat, v < 6 → hexVal (BitVec.ofNat 8 (0x41 + v)) = some (10 + v)) ∧
  (∀ c : Byte, c.toNat < 0x30 ∨ (0x39 < c.toNat ∧ c.toNat < 0x41) ∨ (0x46 < c.toNat ∧ c.toNat < 0x61) ∨ 0x66 < c.toNat →
    hexVal c = none) ∧
  ∀ s : State,
    (s.opLen ≠ 64 → FailsWith .importHex s .malformedDigest) ∧
    (s.opLen = 64 → ¬ s.opSrc + 64 ≤ s.cfg.bufSize → FailsWith .importHex s .bufferRange) ∧
    (s.opLen = 64 → s.opSrc + 64 ≤ s.cfg.bufSize → (∃ j, j < 64 ∧ hexVal (s.byte (s.opSrc + j)) = none) →
      FailsWith .importHex s .malformedDigest) ∧
    (∀ d : Nat → Nat, s.opLen = 64 → s.opSrc + 64 ≤ s.cfg.bufSize →
      (∀ j, j < 64 → hexVal (s.byte (s.opSrc + j)) = some (d j)) →
      Succeeds .importHex s fun t =>
        (∀ i : Fin 8, (t.h.get i).toNat =
          d (8 * i.val) * 16 ^ 7 + d (8 * i.val + 1) * 16 ^ 6 + d (8 * i.val + 2) * 16 ^ 5 + d (8 * i.val + 3) * 16 ^ 4 +
          d (8 * i.val + 4) * 16 ^ 3 + d (8 * i.val + 5) * 16 ^ 2 + d (8 * i.val + 6) * 16 + d (8 * i.val + 7)) ∧
        t.outlen = s.outlen ∧ t.buf = s.buf ∧ SameBytes s t)

/-- R174: IMPORT_BYTES. Where the 32 bytes fit, H[i] is the big-endian word of bytes 4i to 4i + 3, with no content check, and
OUTLEN and every byte of BUF are unchanged; otherwise BUFFER_RANGE. -/
def Obligations.ImportBytesReadsState : Prop :=
  decodeCmd 0x00000006#32 = .ok .importBytes ∧ ∀ s : State,
    (s.opSrc + 32 ≤ s.cfg.bufSize →
      Succeeds .importBytes s fun t =>
        (∀ i : Fin 8, t.h.get i = be32 (s.byte (s.opSrc + 4 * i.val)) (s.byte (s.opSrc + 4 * i.val + 1))
          (s.byte (s.opSrc + 4 * i.val + 2)) (s.byte (s.opSrc + 4 * i.val + 3))) ∧
        t.outlen = s.outlen ∧ t.buf = s.buf ∧ SameBytes s t) ∧
    (¬ s.opSrc + 32 ≤ s.cfg.bufSize → FailsWith .importBytes s .bufferRange)

/-- R175: EXPORT_HEX. Where the 64 bytes fit, character 8i + d at DST is the lower-case digit of bits 31 − 4d to 28 − 4d of
H[i], and H, OUTLEN and every other byte are unchanged; otherwise BUFFER_RANGE.
The digits 0 to 9 are spelled '0' to '9', and 10 to 15 'a' to 'f' (R171). -/
def Obligations.ExportHexWritesDigest : Prop :=
  decodeCmd 0x00000007#32 = .ok .exportHex ∧
  (∀ v : Nat, v < 10 → hexChar v = BitVec.ofNat 8 (0x30 + v)) ∧
  (∀ v : Nat, v < 6 → hexChar (10 + v) = BitVec.ofNat 8 (0x61 + v)) ∧
  ∀ s : State,
    (s.opDst + 64 ≤ s.cfg.bufSize →
      Succeeds .exportHex s fun t =>
        (∀ (i : Fin 8) (d : Fin 8), t.byte (s.opDst + 8 * i.val + d.val) =
          hexChar (((s.h.get i).extractLsb' (28 - 4 * d.val) 4).toNat)) ∧
        SameBytesOutside s t s.opDst 64 ∧ t.h = s.h ∧ t.outlen = s.outlen) ∧
    (¬ s.opDst + 64 ≤ s.cfg.bufSize → FailsWith .exportHex s .bufferRange)

/-- R176: EXPORT_BYTES. Where the 32 bytes fit, bytes 4i to 4i + 3 at DST are H[i], most significant byte first, and H, OUTLEN
and every other byte are unchanged; otherwise BUFFER_RANGE. -/
def Obligations.ExportBytesWritesState : Prop :=
  decodeCmd 0x00000008#32 = .ok .exportBytes ∧ ∀ s : State,
    (s.opDst + 32 ≤ s.cfg.bufSize →
      Succeeds .exportBytes s fun t =>
        (∀ i : Fin 8, t.memRead (s.opDst + 4 * i.val) 4 =
          [(s.h.get i).extractLsb' 24 8, (s.h.get i).extractLsb' 16 8, (s.h.get i).extractLsb' 8 8,
           (s.h.get i).extractLsb' 0 8]) ∧
        SameBytesOutside s t s.opDst 32 ∧ t.h = s.h ∧ t.outlen = s.outlen) ∧
    (¬ s.opDst + 32 ≤ s.cfg.bufSize → FailsWith .exportBytes s .bufferRange)

/-! ### Padding (R130 to R136) -/

/-- R130: z and the padded length as the rule writes them over unbounded integers; z is the fewest zero bytes after which the
absorbed stream, the length field included, is a multiple of 64; and 0 ≤ z ≤ 63. -/
def Obligations.PadUsesFewestZeros : Prop :=
  ∀ l p : Nat,
    ((padZeros l p : Nat) : Int) = (55 - ((p : Int) + (l : Int)) % 64) % 64 ∧
    padLen l p = l + 1 + padZeros l p + 8 ∧ padZeros l p ≤ 63 ∧
    (∀ z : Nat, (l + 1 + z + p + 8) % 64 = 0 ↔ z % 64 = padZeros l p) ∧
    ∀ z : Nat, z < padZeros l p → (l + 1 + z + p + 8) % 64 ≠ 0

/-- R134: the padded length plus the prior length is a multiple of 64, the output is a multiple of 64 bytes exactly when P is,
and the final 8 bytes decode big-endian to 8·(P + len(m)) as long as that is below 2^64, and to its value mod 2^64 at any
length (R131). -/
def Obligations.PadAlignsTheWholeStream : Prop :=
  ∀ (m : List Byte) (p : Nat),
    (padBytes m p).length = padLen m.length p ∧ (padLen m.length p + p) % 64 = 0 ∧
    ((padBytes m p).length % 64 = 0 ↔ p % 64 = 0) ∧
    ((padBytes m p).drop ((padBytes m p).length - 8)).foldl (fun acc b => acc * 256 + b.toNat) 0 =
      8 * (p + m.length) % 2 ^ 64 ∧
    (8 * (p + m.length) < 2 ^ 64 →
      ((padBytes m p).drop ((padBytes m p).length - 8)).foldl (fun acc b => acc * 256 + b.toNat) 0 = 8 * (p + m.length))

/-- R135: the bounds on z and on the padded length, when each is reached, and the bytes before the length field. -/
def Obligations.PadBoundsAndLayout : Prop :=
  ∀ (m : List Byte) (p : Nat),
    padZeros m.length p ≤ 63 ∧ m.length + 9 ≤ padLen m.length p ∧ padLen m.length p ≤ m.length + 72 ∧
    ((p + m.length) % 64 = 56 → padZeros m.length p = 63) ∧
    (padLen m.length p = m.length + 72 ↔ (p + m.length) % 64 = 56) ∧
    (padLen m.length p = m.length + 9 ↔ (p + m.length) % 64 = 55) ∧
    (padBytes m p).take m.length = m ∧ (padBytes m p)[m.length]? = some 0x80#8 ∧
    ∀ j, m.length + 1 ≤ j → j + 9 ≤ padLen m.length p → (padBytes m p)[j]? = some 0x00#8

/-- R136: the split law. -/
def Obligations.PadSplitsAtAnyPoint : Prop :=
  ∀ (m : List Byte) (p j : Nat), j ≤ m.length → padBytes m p = m.take j ++ padBytes (m.drop j) (p + j)

/-! ### The schedule and the compression (R140, R141, R151 to R157) -/

/-- R140, R141: the schedule has 64 words, the first 16 are the block's big-endian words, and each later word is the recurrence
over earlier ones. -/
def Obligations.ScheduleFollowsRecurrence : Prop :=
  ∀ block : List Byte, block.length = 64 →
    (expandBlock block).length = 64 ∧
    (∀ i, i < 16 → (expandBlock block).getD i 0#32 =
      be32 (block.getD (4 * i) 0#8) (block.getD (4 * i + 1) 0#8) (block.getD (4 * i + 2) 0#8)
        (block.getD (4 * i + 3) 0#8)) ∧
    (∀ i, 16 ≤ i → i < 64 → (expandBlock block).getD i 0#32 =
      (expandBlock block).getD (i - 16) 0#32 +
      (rotr ((expandBlock block).getD (i - 15) 0#32) 7 ^^^ rotr ((expandBlock block).getD (i - 15) 0#32) 18 ^^^
        ((expandBlock block).getD (i - 15) 0#32 >>> 3)) +
      (expandBlock block).getD (i - 7) 0#32 +
      (rotr ((expandBlock block).getD (i - 2) 0#32) 17 ^^^ rotr ((expandBlock block).getD (i - 2) 0#32) 19 ^^^
        ((expandBlock block).getD (i - 2) 0#32 >>> 10)))

/-- R150 to R152: one round, and one block as 64 rounds in increasing t between the load of the working registers and the fold,
written out from the rules.
K[t] is the first 32 bits of the fractional part of the cube root of the t-th prime (R46). -/
def Obligations.RoundAndBlockFollowTheRules : Prop :=
  (kRom.length = 64 ∧ ∀ c ∈ List.zip kRom
      [2, 3, 5, 7, 11, 13, 17, 19, 23, 29, 31, 37, 41, 43, 47, 53, 59, 61, 67, 71, 73, 79, 83, 89, 97, 101, 103, 107, 109,
       113, 127, 131, 137, 139, 149, 151, 157, 163, 167, 173, 179, 181, 191, 193, 197, 199, 211, 223, 227, 229, 233, 239,
       241, 251, 257, 263, 269, 271, 277, 281, 283, 293, 307, 311],
    ∃ n, n < 7 ∧ (n * 2 ^ 32 + c.1.toNat) ^ 3 ≤ c.2 * 2 ^ 96 ∧ c.2 * 2 ^ 96 < (n * 2 ^ 32 + c.1.toNat + 1) ^ 3) ∧
  (∀ (t : Nat) (r : Working) (w : List Word) (temp1 temp2 : Word),
    temp1 = r.h + (rotr r.e 6 ^^^ rotr r.e 11 ^^^ rotr r.e 25) + ((r.e &&& r.f) ^^^ (~~~ r.e &&& r.g)) + kRom.getD t 0#32 +
      w.getD t 0#32 →
    temp2 = (rotr r.a 2 ^^^ rotr r.a 13 ^^^ rotr r.a 22) + ((r.a &&& r.b) ^^^ (r.a &&& r.c) ^^^ (r.b &&& r.c)) →
    round t r w =
      { a := temp1 + temp2, b := r.a, c := r.b, d := r.c, e := r.d + temp1, f := r.e, g := r.f, h := r.g }) ∧
  (∀ (x : HashState) (block : List Byte) (r : Nat → Working),
    r 0 = { a := x.h0, b := x.h1, c := x.h2, d := x.h3, e := x.h4, f := x.h5, g := x.h6, h := x.h7 } →
    (∀ t, t < 64 → r (t + 1) = round t (r t) (expandBlock block)) →
    compress1 x block =
      { h0 := x.h0 + (r 64).a, h1 := x.h1 + (r 64).b, h2 := x.h2 + (r 64).c, h3 := x.h3 + (r 64).d,
        h4 := x.h4 + (r 64).e, h5 := x.h5 + (r 64).f, h6 := x.h6 + (r 64).g, h7 := x.h7 + (r 64).h })

/-- R153: one block is Compress1, no block leaves H, and the state from each block feeds the next. -/
def Obligations.BlocksAreChainedInOrder : Prop :=
  (∀ x : HashState, compressN x [] = x) ∧
  (∀ (x : HashState) (block rest : List Byte), block.length = 64 → rest.length % 64 = 0 →
    compressN x (block ++ rest) = compressN (compress1 x block) rest)

/-- R155: the chaining law. -/
def Obligations.CompressionChains : Prop :=
  ∀ (x : HashState) (a b : List Byte), a.length % 64 = 0 → b.length % 64 = 0 →
    compressN (compressN x a) b = compressN x (a ++ b)

/-- R157: length extension from the digest of any X, and the split of Q when X is a secret followed by a known message. -/
def Obligations.LengthExtension : Prop :=
  (∀ X Y : List Byte,
    (padBytes X 0).length % 64 = 0 ∧
    compressN (compressN iv (padBytes X 0)) (padBytes Y (padBytes X 0).length) =
      compressN iv (padBytes (padBytes X 0 ++ Y) 0)) ∧
  (∀ secret known : List Byte,
    padBytes (secret ++ known) 0 = secret ++ padBytes known secret.length ∧
    (padBytes (secret ++ known) 0).length = secret.length + (padBytes known secret.length).length)

/-- R43 to R45, R152, R153: running the blocks one round at a time over the working registers, the schedule and the counters
k and t, from any values of them, leaves in H what COMPRESS computes and k at the number of blocks, and changes nothing else of
the state: BUF, OUTLEN, the operand registers, the captured command and the phase are as before.
The sequenced form stands beside the step, which completes a command at once: the model's own choice (assumption 9). -/
def Obligations.SequencedDatapathComputesCompress : Prop :=
  ∀ s : State, s.opLen % 64 = 0 →
    ∃ (w : Vector Word 64) (work : Working) (t : Fin 64),
      (s.startBlocks).runBlocks (s.opLen / 64) =
        { s with h := compressN s.h (s.memRead s.opSrc s.opLen), k := s.opLen / 64, w := w, work := work, t := t }

/-! ### Round trips of the codec (R177) -/

/-- R177: IMPORT_HEX of a text that it accepts, then EXPORT_HEX, writes the text in lower case, where lower case maps 'A' to 'F'
to 'a' to 'f' and leaves every other byte. -/
def Obligations.HexImportThenExportLowersCase : Prop :=
  (∀ v : Nat, v < 6 → lowerHex (BitVec.ofNat 8 (0x41 + v)) = BitVec.ofNat 8 (0x61 + v)) ∧
  (∀ c : Byte, c.toNat < 0x41 ∨ 0x46 < c.toNat → lowerHex c = c) ∧
  ∀ (s t u : State) (c : Command), exec .importHex s = .next t → t.err = none →
    exec .exportHex { t with cmd := c } = .next u → c.dst.toNat + 64 ≤ s.cfg.bufSize →
    u.memRead c.dst.toNat 64 = (s.memRead s.opSrc 64).map lowerHex

/-- R177: EXPORT_HEX then IMPORT_HEX from the same place leaves H unchanged, and so does EXPORT_BYTES then IMPORT_BYTES. -/
def Obligations.ExportThenImportKeepsState : Prop :=
  ∀ (s t : State) (c : Command),
    (exec .exportHex s = .next t → t.err = none → c.src = s.cmd.dst → c.len = 64#32 →
      ∃ u, exec .importHex { t with cmd := c } = .next u ∧ u.err = none ∧ u.h = s.h) ∧
    (exec .exportBytes s = .next t → t.err = none → c.src = s.cmd.dst →
      ∃ u, exec .importBytes { t with cmd := c } = .next u ∧ u.err = none ∧ u.h = s.h)

/-- R177: IMPORT_BYTES then EXPORT_BYTES writes the bytes that were imported. -/
def Obligations.BytesImportThenExportWritesSame : Prop :=
  ∀ (s t u : State) (c : Command), exec .importBytes s = .next t → t.err = none →
    exec .exportBytes { t with cmd := c } = .next u → c.dst.toNat + 32 ≤ s.cfg.bufSize →
    u.memRead c.dst.toNat 32 = s.memRead s.opSrc 32

/-! ### Reset (R50, R230 to R232) -/

/-- R50: the state after reset, in the fields the spec gives a value. -/
def Obligations.ResetStateValues : Prop :=
  ResetValues State.reset ∧ State.reset.cfg.bufSize = 4096 ∧
  State.reset.h.toList = [0x6a09e667#32, 0xbb67ae85#32, 0x3c6ef372#32, 0xa54ff53a#32, 0x510e527f#32, 0x9b05688c#32,
    0x1f83d9ab#32, 0x5be0cd19#32] ∧
  State.reset.statusWord = 0x00000000#32 ∧ State.reset.ctrlWord = 0x00000000#32 ∧ State.reset.irq = false ∧
  State.reset.readReg .id = 0x48584501#32 ∧ State.reset.readReg .bufsz = 0x00001000#32

/-- R230, R231: driving `rst_n` to 0 from any state, BUSY or not, and its release, each give every register its reset value,
abandon the command with DONE = 0, and leave every BUF byte unspecified (the free value of the new epoch, assumption 2).
At release `rst_n` is 1; driving it to 1 when it is 1 is no release and changes nothing (assumption 8). -/
def Obligations.ResetFromAnyState : Prop :=
  (∀ s : State, ResetValues (s.hostStep .assertReset) ∧ (s.hostStep .assertReset).rstN = false ∧
    (s.hostStep .assertReset).cfg = s.cfg ∧ (s.hostStep .assertReset).irq = false ∧
    (∀ a, (s.hostStep .assertReset).byte a = Config.unwrittenByte (s.epoch + 1) a)) ∧
  (∀ s : State, s.rstN = false →
    ResetValues (s.hostStep .releaseReset) ∧ (s.hostStep .releaseReset).rstN = true ∧
    (s.hostStep .releaseReset).cfg = s.cfg ∧ (s.hostStep .releaseReset).irq = false ∧
    (∀ a, (s.hostStep .releaseReset).byte a = Config.unwrittenByte (s.epoch + 1) a)) ∧
  (∀ s : State, s.rstN = true → s.hostStep .releaseReset = s)

/-- R230: a host transaction during reset has no effect; only the response, of which nothing is said, and the model's draw
counter differ. -/
def Obligations.TransactionInResetHasNoEffect : Prop :=
  ∀ (s : State) (tx : Txn), s.rstN = false →
    ∃ b, s.transact tx = { s with bus := some b, draws := s.draws + 1 }

/-! ### Invariants and the end of a BUSY window -/

/-- The invariant holds after reset. -/
def Obligations.ResetMeetsInvariant : Prop :=
  State.reset.Inv

/-- Every step keeps the invariant, from every state that meets it. -/
def Obligations.StepKeepsInvariant : Prop :=
  ∀ s t : State, s.Inv → step s = .next t → t.Inv

/-- R113, R245: a BUSY engine completes, whatever the schedule and whatever the host does short of a reset: within one step more
than the turns the schedule still holds, the phase is IDLE with DONE = 1.
That the schedule is a finite list is the model's form of weak fairness (assumption 1). -/
def Obligations.BusyWindowEnds : Prop :=
  ∀ s : State, s.phase = .busy → s.rstN = true → (∀ op ∈ s.inputs, op ≠ .assertReset) →
    ∃ n t, n ≤ s.turns.length + 1 ∧ Sys2Proof.core.run n s = .next t ∧ t.phase = .idle ∧ t.done = true

/-- R74, R96, R113: `ISSUE w` then `POLL`, from an idle HXE and under every schedule, ends idle with DONE = 1, the poll answered
with BUSY = 0, and H, BUF, OUTLEN and ERR exactly what the command computes from the state at acceptance; for an ILLEGAL word
that is ERR = ILLEGAL_COMMAND with H, BUF and OUTLEN as they were (R204).
The schedule is the model's own form of the time of Complete (assumption 1). -/
def Obligations.IssueThenPollGivesCommandResult : Prop :=
  ∀ (s : State) (w : Word) (rest : List HostOp), s.rstN = true → s.phase = .idle →
    s.inputs = wrReg .cmd w :: .poll :: rest →
    (∀ (i : Instr) (u : State), decodeCmd w = .ok i → exec i (s.accept w) = .next u →
      ∃ n t, Sys2Proof.core.run n s = .next t ∧ PolledIdle s t rest ∧ t.err = u.err ∧ t.h = u.h ∧ t.buf = u.buf ∧
        t.outlen = u.outlen) ∧
    (∀ e : DecodeError, decodeCmd w = .error e →
      ∃ n t, Sys2Proof.core.run n s = .next t ∧ PolledIdle s t rest ∧ t.err = some .illegalCommand ∧ t.h = s.h ∧
        t.buf = s.buf ∧ t.outlen = s.outlen)
end

