-- ==== Sys2Proof/Laws/State.lean ====
section
/-!
SUPPORT. One lemma per field per update of State, true by rfl, so that no later proof unfolds a record update.
-/

namespace Sys2Proof.Machine

/-! ### forgetHidden -/

@[simp] theorem State.forgetHidden_cfg (s : State) : (s.forgetHidden).cfg = s.cfg := rfl
@[simp] theorem State.forgetHidden_rstN (s : State) : (s.forgetHidden).rstN = s.rstN := rfl
@[simp] theorem State.forgetHidden_ie (s : State) : (s.forgetHidden).ie = s.ie := rfl
@[simp] theorem State.forgetHidden_phase (s : State) : (s.forgetHidden).phase = s.phase := rfl
@[simp] theorem State.forgetHidden_done (s : State) : (s.forgetHidden).done = s.done := rfl
@[simp] theorem State.forgetHidden_ovr (s : State) : (s.forgetHidden).ovr = s.ovr := rfl
@[simp] theorem State.forgetHidden_err (s : State) : (s.forgetHidden).err = s.err := rfl
@[simp] theorem State.forgetHidden_src (s : State) : (s.forgetHidden).src = s.src := rfl
@[simp] theorem State.forgetHidden_dst (s : State) : (s.forgetHidden).dst = s.dst := rfl
@[simp] theorem State.forgetHidden_len (s : State) : (s.forgetHidden).len = s.len := rfl
@[simp] theorem State.forgetHidden_outlen (s : State) : (s.forgetHidden).outlen = s.outlen := rfl
@[simp] theorem State.forgetHidden_priorLo (s : State) : (s.forgetHidden).priorLo = s.priorLo := rfl
@[simp] theorem State.forgetHidden_priorHi (s : State) : (s.forgetHidden).priorHi = s.priorHi := rfl
@[simp] theorem State.forgetHidden_h (s : State) : (s.forgetHidden).h = s.h := rfl
@[simp] theorem State.forgetHidden_buf (s : State) : (s.forgetHidden).buf = s.buf := rfl
@[simp] theorem State.forgetHidden_bus (s : State) : (s.forgetHidden).bus = s.bus := rfl
@[simp] theorem State.forgetHidden_inputs (s : State) : (s.forgetHidden).inputs = s.inputs := rfl
@[simp] theorem State.forgetHidden_turns (s : State) : (s.forgetHidden).turns = s.turns := rfl
@[simp] theorem State.forgetHidden_draws (s : State) : (s.forgetHidden).draws = s.draws + 1 := rfl
@[simp] theorem State.forgetHidden_epoch (s : State) : (s.forgetHidden).epoch = s.epoch := rfl

/-! ### endCommand -/

@[simp] theorem State.endCommand_cfg (s : State) : (s.endCommand).cfg = s.cfg := rfl
@[simp] theorem State.endCommand_rstN (s : State) : (s.endCommand).rstN = s.rstN := rfl
@[simp] theorem State.endCommand_ie (s : State) : (s.endCommand).ie = s.ie := rfl
@[simp] theorem State.endCommand_phase (s : State) : (s.endCommand).phase = .idle := rfl
@[simp] theorem State.endCommand_done (s : State) : (s.endCommand).done = true := rfl
@[simp] theorem State.endCommand_ovr (s : State) : (s.endCommand).ovr = s.ovr := rfl
@[simp] theorem State.endCommand_err (s : State) : (s.endCommand).err = s.err := rfl
@[simp] theorem State.endCommand_src (s : State) : (s.endCommand).src = s.src := rfl
@[simp] theorem State.endCommand_dst (s : State) : (s.endCommand).dst = s.dst := rfl
@[simp] theorem State.endCommand_len (s : State) : (s.endCommand).len = s.len := rfl
@[simp] theorem State.endCommand_outlen (s : State) : (s.endCommand).outlen = s.outlen := rfl
@[simp] theorem State.endCommand_priorLo (s : State) : (s.endCommand).priorLo = s.priorLo := rfl
@[simp] theorem State.endCommand_priorHi (s : State) : (s.endCommand).priorHi = s.priorHi := rfl
@[simp] theorem State.endCommand_h (s : State) : (s.endCommand).h = s.h := rfl
@[simp] theorem State.endCommand_buf (s : State) : (s.endCommand).buf = s.buf := rfl
@[simp] theorem State.endCommand_bus (s : State) : (s.endCommand).bus = s.bus := rfl
@[simp] theorem State.endCommand_inputs (s : State) : (s.endCommand).inputs = s.inputs := rfl
@[simp] theorem State.endCommand_turns (s : State) : (s.endCommand).turns = s.turns := rfl
@[simp] theorem State.endCommand_draws (s : State) : (s.endCommand).draws = s.draws + 1 := rfl
@[simp] theorem State.endCommand_epoch (s : State) : (s.endCommand).epoch = s.epoch := rfl

/-! ### failCommand -/

@[simp] theorem State.failCommand_cfg (s : State) (e : CmdError) : (s.failCommand e).cfg = s.cfg := rfl
@[simp] theorem State.failCommand_rstN (s : State) (e : CmdError) : (s.failCommand e).rstN = s.rstN := rfl
@[simp] theorem State.failCommand_ie (s : State) (e : CmdError) : (s.failCommand e).ie = s.ie := rfl
@[simp] theorem State.failCommand_phase (s : State) (e : CmdError) : (s.failCommand e).phase = .idle := rfl
@[simp] theorem State.failCommand_done (s : State) (e : CmdError) : (s.failCommand e).done = true := rfl
@[simp] theorem State.failCommand_ovr (s : State) (e : CmdError) : (s.failCommand e).ovr = s.ovr := rfl
@[simp] theorem State.failCommand_err (s : State) (e : CmdError) : (s.failCommand e).err = some e := rfl
@[simp] theorem State.failCommand_src (s : State) (e : CmdError) : (s.failCommand e).src = s.src := rfl
@[simp] theorem State.failCommand_dst (s : State) (e : CmdError) : (s.failCommand e).dst = s.dst := rfl
@[simp] theorem State.failCommand_len (s : State) (e : CmdError) : (s.failCommand e).len = s.len := rfl
@[simp] theorem State.failCommand_outlen (s : State) (e : CmdError) : (s.failCommand e).outlen = s.outlen := rfl
@[simp] theorem State.failCommand_priorLo (s : State) (e : CmdError) : (s.failCommand e).priorLo = s.priorLo := rfl
@[simp] theorem State.failCommand_priorHi (s : State) (e : CmdError) : (s.failCommand e).priorHi = s.priorHi := rfl
@[simp] theorem State.failCommand_h (s : State) (e : CmdError) : (s.failCommand e).h = s.h := rfl
@[simp] theorem State.failCommand_buf (s : State) (e : CmdError) : (s.failCommand e).buf = s.buf := rfl
@[simp] theorem State.failCommand_bus (s : State) (e : CmdError) : (s.failCommand e).bus = s.bus := rfl
@[simp] theorem State.failCommand_inputs (s : State) (e : CmdError) : (s.failCommand e).inputs = s.inputs := rfl
@[simp] theorem State.failCommand_turns (s : State) (e : CmdError) : (s.failCommand e).turns = s.turns := rfl
@[simp] theorem State.failCommand_draws (s : State) (e : CmdError) : (s.failCommand e).draws = s.draws + 1 := rfl
@[simp] theorem State.failCommand_epoch (s : State) (e : CmdError) : (s.failCommand e).epoch = s.epoch := rfl

/-! ### succeed -/

@[simp] theorem State.succeed_cfg (s : State) (d : Data) : (s.succeed d).cfg = s.cfg := rfl
@[simp] theorem State.succeed_rstN (s : State) (d : Data) : (s.succeed d).rstN = s.rstN := rfl
@[simp] theorem State.succeed_ie (s : State) (d : Data) : (s.succeed d).ie = s.ie := rfl
@[simp] theorem State.succeed_phase (s : State) (d : Data) : (s.succeed d).phase = .idle := rfl
@[simp] theorem State.succeed_done (s : State) (d : Data) : (s.succeed d).done = true := rfl
@[simp] theorem State.succeed_ovr (s : State) (d : Data) : (s.succeed d).ovr = s.ovr := rfl
@[simp] theorem State.succeed_err (s : State) (d : Data) : (s.succeed d).err = none := rfl
@[simp] theorem State.succeed_src (s : State) (d : Data) : (s.succeed d).src = s.src := rfl
@[simp] theorem State.succeed_dst (s : State) (d : Data) : (s.succeed d).dst = s.dst := rfl
@[simp] theorem State.succeed_len (s : State) (d : Data) : (s.succeed d).len = s.len := rfl
@[simp] theorem State.succeed_outlen (s : State) (d : Data) : (s.succeed d).outlen = d.outlen := rfl
@[simp] theorem State.succeed_priorLo (s : State) (d : Data) : (s.succeed d).priorLo = s.priorLo := rfl
@[simp] theorem State.succeed_priorHi (s : State) (d : Data) : (s.succeed d).priorHi = s.priorHi := rfl
@[simp] theorem State.succeed_h (s : State) (d : Data) : (s.succeed d).h = d.h := rfl
@[simp] theorem State.succeed_buf (s : State) (d : Data) : (s.succeed d).buf = d.buf := rfl
@[simp] theorem State.succeed_bus (s : State) (d : Data) : (s.succeed d).bus = s.bus := rfl
@[simp] theorem State.succeed_inputs (s : State) (d : Data) : (s.succeed d).inputs = s.inputs := rfl
@[simp] theorem State.succeed_turns (s : State) (d : Data) : (s.succeed d).turns = s.turns := rfl
@[simp] theorem State.succeed_draws (s : State) (d : Data) : (s.succeed d).draws = s.draws + 1 := rfl
@[simp] theorem State.succeed_epoch (s : State) (d : Data) : (s.succeed d).epoch = s.epoch := rfl

/-! ### accept -/

@[simp] theorem State.accept_cfg (s : State) (w : Word) : (s.accept w).cfg = s.cfg := rfl
@[simp] theorem State.accept_rstN (s : State) (w : Word) : (s.accept w).rstN = s.rstN := rfl
@[simp] theorem State.accept_ie (s : State) (w : Word) : (s.accept w).ie = s.ie := rfl
@[simp] theorem State.accept_phase (s : State) (w : Word) : (s.accept w).phase = .busy := rfl
@[simp] theorem State.accept_done (s : State) (w : Word) : (s.accept w).done = false := rfl
@[simp] theorem State.accept_ovr (s : State) (w : Word) : (s.accept w).ovr = s.ovr := rfl
@[simp] theorem State.accept_err (s : State) (w : Word) : (s.accept w).err = none := rfl
@[simp] theorem State.accept_src (s : State) (w : Word) : (s.accept w).src = s.src := rfl
@[simp] theorem State.accept_dst (s : State) (w : Word) : (s.accept w).dst = s.dst := rfl
@[simp] theorem State.accept_len (s : State) (w : Word) : (s.accept w).len = s.len := rfl
@[simp] theorem State.accept_outlen (s : State) (w : Word) : (s.accept w).outlen = s.outlen := rfl
@[simp] theorem State.accept_priorLo (s : State) (w : Word) : (s.accept w).priorLo = s.priorLo := rfl
@[simp] theorem State.accept_priorHi (s : State) (w : Word) : (s.accept w).priorHi = s.priorHi := rfl
@[simp] theorem State.accept_h (s : State) (w : Word) : (s.accept w).h = s.h := rfl
@[simp] theorem State.accept_buf (s : State) (w : Word) : (s.accept w).buf = s.buf := rfl
@[simp] theorem State.accept_cmd (s : State) (w : Word) : (s.accept w).cmd = { word := w, src := s.src, dst := s.dst, len := s.len, prior := s.priorHi ++ s.priorLo } := rfl
@[simp] theorem State.accept_work (s : State) (w : Word) : (s.accept w).work = s.work := rfl
@[simp] theorem State.accept_w (s : State) (w : Word) : (s.accept w).w = s.w := rfl
@[simp] theorem State.accept_k (s : State) (w : Word) : (s.accept w).k = s.k := rfl
@[simp] theorem State.accept_t (s : State) (w : Word) : (s.accept w).t = s.t := rfl
@[simp] theorem State.accept_bus (s : State) (w : Word) : (s.accept w).bus = s.bus := rfl
@[simp] theorem State.accept_inputs (s : State) (w : Word) : (s.accept w).inputs = s.inputs := rfl
@[simp] theorem State.accept_turns (s : State) (w : Word) : (s.accept w).turns = s.turns := rfl
@[simp] theorem State.accept_draws (s : State) (w : Word) : (s.accept w).draws = s.draws := rfl
@[simp] theorem State.accept_epoch (s : State) (w : Word) : (s.accept w).epoch = s.epoch := rfl

/-! ### writeStatus -/

@[simp] theorem State.writeStatus_cfg (s : State) (v : Word) : (s.writeStatus v).cfg = s.cfg := rfl
@[simp] theorem State.writeStatus_rstN (s : State) (v : Word) : (s.writeStatus v).rstN = s.rstN := rfl
@[simp] theorem State.writeStatus_ie (s : State) (v : Word) : (s.writeStatus v).ie = s.ie := rfl
@[simp] theorem State.writeStatus_phase (s : State) (v : Word) : (s.writeStatus v).phase = s.phase := rfl
@[simp] theorem State.writeStatus_done (s : State) (v : Word) : (s.writeStatus v).done = (s.done && !v.getLsbD 1) := rfl
@[simp] theorem State.writeStatus_ovr (s : State) (v : Word) : (s.writeStatus v).ovr = (s.ovr && !v.getLsbD 2) := rfl
@[simp] theorem State.writeStatus_err (s : State) (v : Word) : (s.writeStatus v).err = s.err := rfl
@[simp] theorem State.writeStatus_src (s : State) (v : Word) : (s.writeStatus v).src = s.src := rfl
@[simp] theorem State.writeStatus_dst (s : State) (v : Word) : (s.writeStatus v).dst = s.dst := rfl
@[simp] theorem State.writeStatus_len (s : State) (v : Word) : (s.writeStatus v).len = s.len := rfl
@[simp] theorem State.writeStatus_outlen (s : State) (v : Word) : (s.writeStatus v).outlen = s.outlen := rfl
@[simp] theorem State.writeStatus_priorLo (s : State) (v : Word) : (s.writeStatus v).priorLo = s.priorLo := rfl
@[simp] theorem State.writeStatus_priorHi (s : State) (v : Word) : (s.writeStatus v).priorHi = s.priorHi := rfl
@[simp] theorem State.writeStatus_h (s : State) (v : Word) : (s.writeStatus v).h = s.h := rfl
@[simp] theorem State.writeStatus_buf (s : State) (v : Word) : (s.writeStatus v).buf = s.buf := rfl
@[simp] theorem State.writeStatus_cmd (s : State) (v : Word) : (s.writeStatus v).cmd = s.cmd := rfl
@[simp] theorem State.writeStatus_work (s : State) (v : Word) : (s.writeStatus v).work = s.work := rfl
@[simp] theorem State.writeStatus_w (s : State) (v : Word) : (s.writeStatus v).w = s.w := rfl
@[simp] theorem State.writeStatus_k (s : State) (v : Word) : (s.writeStatus v).k = s.k := rfl
@[simp] theorem State.writeStatus_t (s : State) (v : Word) : (s.writeStatus v).t = s.t := rfl
@[simp] theorem State.writeStatus_bus (s : State) (v : Word) : (s.writeStatus v).bus = s.bus := rfl
@[simp] theorem State.writeStatus_inputs (s : State) (v : Word) : (s.writeStatus v).inputs = s.inputs := rfl
@[simp] theorem State.writeStatus_turns (s : State) (v : Word) : (s.writeStatus v).turns = s.turns := rfl
@[simp] theorem State.writeStatus_draws (s : State) (v : Word) : (s.writeStatus v).draws = s.draws := rfl
@[simp] theorem State.writeStatus_epoch (s : State) (v : Word) : (s.writeStatus v).epoch = s.epoch := rfl

/-! ### writeCtrl -/

@[simp] theorem State.writeCtrl_cfg (s : State) (v : Word) : (s.writeCtrl v).cfg = s.cfg := rfl
@[simp] theorem State.writeCtrl_rstN (s : State) (v : Word) : (s.writeCtrl v).rstN = s.rstN := rfl
@[simp] theorem State.writeCtrl_ie (s : State) (v : Word) : (s.writeCtrl v).ie = v.getLsbD 0 := rfl
@[simp] theorem State.writeCtrl_phase (s : State) (v : Word) : (s.writeCtrl v).phase = s.phase := rfl
@[simp] theorem State.writeCtrl_done (s : State) (v : Word) : (s.writeCtrl v).done = s.done := rfl
@[simp] theorem State.writeCtrl_ovr (s : State) (v : Word) : (s.writeCtrl v).ovr = s.ovr := rfl
@[simp] theorem State.writeCtrl_err (s : State) (v : Word) : (s.writeCtrl v).err = s.err := rfl
@[simp] theorem State.writeCtrl_src (s : State) (v : Word) : (s.writeCtrl v).src = s.src := rfl
@[simp] theorem State.writeCtrl_dst (s : State) (v : Word) : (s.writeCtrl v).dst = s.dst := rfl
@[simp] theorem State.writeCtrl_len (s : State) (v : Word) : (s.writeCtrl v).len = s.len := rfl
@[simp] theorem State.writeCtrl_outlen (s : State) (v : Word) : (s.writeCtrl v).outlen = s.outlen := rfl
@[simp] theorem State.writeCtrl_priorLo (s : State) (v : Word) : (s.writeCtrl v).priorLo = s.priorLo := rfl
@[simp] theorem State.writeCtrl_priorHi (s : State) (v : Word) : (s.writeCtrl v).priorHi = s.priorHi := rfl
@[simp] theorem State.writeCtrl_h (s : State) (v : Word) : (s.writeCtrl v).h = s.h := rfl
@[simp] theorem State.writeCtrl_buf (s : State) (v : Word) : (s.writeCtrl v).buf = s.buf := rfl
@[simp] theorem State.writeCtrl_cmd (s : State) (v : Word) : (s.writeCtrl v).cmd = s.cmd := rfl
@[simp] theorem State.writeCtrl_work (s : State) (v : Word) : (s.writeCtrl v).work = s.work := rfl
@[simp] theorem State.writeCtrl_w (s : State) (v : Word) : (s.writeCtrl v).w = s.w := rfl
@[simp] theorem State.writeCtrl_k (s : State) (v : Word) : (s.writeCtrl v).k = s.k := rfl
@[simp] theorem State.writeCtrl_t (s : State) (v : Word) : (s.writeCtrl v).t = s.t := rfl
@[simp] theorem State.writeCtrl_bus (s : State) (v : Word) : (s.writeCtrl v).bus = s.bus := rfl
@[simp] theorem State.writeCtrl_inputs (s : State) (v : Word) : (s.writeCtrl v).inputs = s.inputs := rfl
@[simp] theorem State.writeCtrl_turns (s : State) (v : Word) : (s.writeCtrl v).turns = s.turns := rfl
@[simp] theorem State.writeCtrl_draws (s : State) (v : Word) : (s.writeCtrl v).draws = s.draws := rfl
@[simp] theorem State.writeCtrl_epoch (s : State) (v : Word) : (s.writeCtrl v).epoch = s.epoch := rfl

/-! ### respond -/

@[simp] theorem State.respond_cfg (s : State) (d : Option Word) (r : Resp) : (s.respond d r).cfg = s.cfg := rfl
@[simp] theorem State.respond_rstN (s : State) (d : Option Word) (r : Resp) : (s.respond d r).rstN = s.rstN := rfl
@[simp] theorem State.respond_ie (s : State) (d : Option Word) (r : Resp) : (s.respond d r).ie = s.ie := rfl
@[simp] theorem State.respond_phase (s : State) (d : Option Word) (r : Resp) : (s.respond d r).phase = s.phase := rfl
@[simp] theorem State.respond_done (s : State) (d : Option Word) (r : Resp) : (s.respond d r).done = s.done := rfl
@[simp] theorem State.respond_ovr (s : State) (d : Option Word) (r : Resp) : (s.respond d r).ovr = s.ovr := rfl
@[simp] theorem State.respond_err (s : State) (d : Option Word) (r : Resp) : (s.respond d r).err = s.err := rfl
@[simp] theorem State.respond_src (s : State) (d : Option Word) (r : Resp) : (s.respond d r).src = s.src := rfl
@[simp] theorem State.respond_dst (s : State) (d : Option Word) (r : Resp) : (s.respond d r).dst = s.dst := rfl
@[simp] theorem State.respond_len (s : State) (d : Option Word) (r : Resp) : (s.respond d r).len = s.len := rfl
@[simp] theorem State.respond_outlen (s : State) (d : Option Word) (r : Resp) : (s.respond d r).outlen = s.outlen := rfl
@[simp] theorem State.respond_priorLo (s : State) (d : Option Word) (r : Resp) : (s.respond d r).priorLo = s.priorLo := rfl
@[simp] theorem State.respond_priorHi (s : State) (d : Option Word) (r : Resp) : (s.respond d r).priorHi = s.priorHi := rfl
@[simp] theorem State.respond_h (s : State) (d : Option Word) (r : Resp) : (s.respond d r).h = s.h := rfl
@[simp] theorem State.respond_buf (s : State) (d : Option Word) (r : Resp) : (s.respond d r).buf = s.buf := rfl
@[simp] theorem State.respond_cmd (s : State) (d : Option Word) (r : Resp) : (s.respond d r).cmd = s.cmd := rfl
@[simp] theorem State.respond_work (s : State) (d : Option Word) (r : Resp) : (s.respond d r).work = s.work := rfl
@[simp] theorem State.respond_w (s : State) (d : Option Word) (r : Resp) : (s.respond d r).w = s.w := rfl
@[simp] theorem State.respond_k (s : State) (d : Option Word) (r : Resp) : (s.respond d r).k = s.k := rfl
@[simp] theorem State.respond_t (s : State) (d : Option Word) (r : Resp) : (s.respond d r).t = s.t := rfl
@[simp] theorem State.respond_bus (s : State) (d : Option Word) (r : Resp) : (s.respond d r).bus = some { rdata := d, resp := r } := rfl
@[simp] theorem State.respond_inputs (s : State) (d : Option Word) (r : Resp) : (s.respond d r).inputs = s.inputs := rfl
@[simp] theorem State.respond_turns (s : State) (d : Option Word) (r : Resp) : (s.respond d r).turns = s.turns := rfl
@[simp] theorem State.respond_draws (s : State) (d : Option Word) (r : Resp) : (s.respond d r).draws = s.draws := rfl
@[simp] theorem State.respond_epoch (s : State) (d : Option Word) (r : Resp) : (s.respond d r).epoch = s.epoch := rfl

/-! ### respondUnspecified -/

@[simp] theorem State.respondUnspecified_cfg (s : State) : (s.respondUnspecified).cfg = s.cfg := rfl
@[simp] theorem State.respondUnspecified_rstN (s : State) : (s.respondUnspecified).rstN = s.rstN := rfl
@[simp] theorem State.respondUnspecified_ie (s : State) : (s.respondUnspecified).ie = s.ie := rfl
@[simp] theorem State.respondUnspecified_phase (s : State) : (s.respondUnspecified).phase = s.phase := rfl
@[simp] theorem State.respondUnspecified_done (s : State) : (s.respondUnspecified).done = s.done := rfl
@[simp] theorem State.respondUnspecified_ovr (s : State) : (s.respondUnspecified).ovr = s.ovr := rfl
@[simp] theorem State.respondUnspecified_err (s : State) : (s.respondUnspecified).err = s.err := rfl
@[simp] theorem State.respondUnspecified_src (s : State) : (s.respondUnspecified).src = s.src := rfl
@[simp] theorem State.respondUnspecified_dst (s : State) : (s.respondUnspecified).dst = s.dst := rfl
@[simp] theorem State.respondUnspecified_len (s : State) : (s.respondUnspecified).len = s.len := rfl
@[simp] theorem State.respondUnspecified_outlen (s : State) : (s.respondUnspecified).outlen = s.outlen := rfl
@[simp] theorem State.respondUnspecified_priorLo (s : State) : (s.respondUnspecified).priorLo = s.priorLo := rfl
@[simp] theorem State.respondUnspecified_priorHi (s : State) : (s.respondUnspecified).priorHi = s.priorHi := rfl
@[simp] theorem State.respondUnspecified_h (s : State) : (s.respondUnspecified).h = s.h := rfl
@[simp] theorem State.respondUnspecified_buf (s : State) : (s.respondUnspecified).buf = s.buf := rfl
@[simp] theorem State.respondUnspecified_cmd (s : State) : (s.respondUnspecified).cmd = s.cmd := rfl
@[simp] theorem State.respondUnspecified_work (s : State) : (s.respondUnspecified).work = s.work := rfl
@[simp] theorem State.respondUnspecified_w (s : State) : (s.respondUnspecified).w = s.w := rfl
@[simp] theorem State.respondUnspecified_k (s : State) : (s.respondUnspecified).k = s.k := rfl
@[simp] theorem State.respondUnspecified_t (s : State) : (s.respondUnspecified).t = s.t := rfl
@[simp] theorem State.respondUnspecified_bus (s : State) : (s.respondUnspecified).bus = some { rdata := some (Config.freeWord s.draws 0), resp := .ok } := rfl
@[simp] theorem State.respondUnspecified_inputs (s : State) : (s.respondUnspecified).inputs = s.inputs := rfl
@[simp] theorem State.respondUnspecified_turns (s : State) : (s.respondUnspecified).turns = s.turns := rfl
@[simp] theorem State.respondUnspecified_draws (s : State) : (s.respondUnspecified).draws = s.draws + 1 := rfl
@[simp] theorem State.respondUnspecified_epoch (s : State) : (s.respondUnspecified).epoch = s.epoch := rfl

/-! ### respondInReset -/

@[simp] theorem State.respondInReset_cfg (s : State) (x : Txn) : (s.respondInReset x).cfg = s.cfg := rfl
@[simp] theorem State.respondInReset_rstN (s : State) (x : Txn) : (s.respondInReset x).rstN = s.rstN := rfl
@[simp] theorem State.respondInReset_ie (s : State) (x : Txn) : (s.respondInReset x).ie = s.ie := rfl
@[simp] theorem State.respondInReset_phase (s : State) (x : Txn) : (s.respondInReset x).phase = s.phase := rfl
@[simp] theorem State.respondInReset_done (s : State) (x : Txn) : (s.respondInReset x).done = s.done := rfl
@[simp] theorem State.respondInReset_ovr (s : State) (x : Txn) : (s.respondInReset x).ovr = s.ovr := rfl
@[simp] theorem State.respondInReset_err (s : State) (x : Txn) : (s.respondInReset x).err = s.err := rfl
@[simp] theorem State.respondInReset_src (s : State) (x : Txn) : (s.respondInReset x).src = s.src := rfl
@[simp] theorem State.respondInReset_dst (s : State) (x : Txn) : (s.respondInReset x).dst = s.dst := rfl
@[simp] theorem State.respondInReset_len (s : State) (x : Txn) : (s.respondInReset x).len = s.len := rfl
@[simp] theorem State.respondInReset_outlen (s : State) (x : Txn) : (s.respondInReset x).outlen = s.outlen := rfl
@[simp] theorem State.respondInReset_priorLo (s : State) (x : Txn) : (s.respondInReset x).priorLo = s.priorLo := rfl
@[simp] theorem State.respondInReset_priorHi (s : State) (x : Txn) : (s.respondInReset x).priorHi = s.priorHi := rfl
@[simp] theorem State.respondInReset_h (s : State) (x : Txn) : (s.respondInReset x).h = s.h := rfl
@[simp] theorem State.respondInReset_buf (s : State) (x : Txn) : (s.respondInReset x).buf = s.buf := rfl
@[simp] theorem State.respondInReset_cmd (s : State) (x : Txn) : (s.respondInReset x).cmd = s.cmd := rfl
@[simp] theorem State.respondInReset_work (s : State) (x : Txn) : (s.respondInReset x).work = s.work := rfl
@[simp] theorem State.respondInReset_w (s : State) (x : Txn) : (s.respondInReset x).w = s.w := rfl
@[simp] theorem State.respondInReset_k (s : State) (x : Txn) : (s.respondInReset x).k = s.k := rfl
@[simp] theorem State.respondInReset_t (s : State) (x : Txn) : (s.respondInReset x).t = s.t := rfl
@[simp] theorem State.respondInReset_inputs (s : State) (x : Txn) : (s.respondInReset x).inputs = s.inputs := rfl
@[simp] theorem State.respondInReset_turns (s : State) (x : Txn) : (s.respondInReset x).turns = s.turns := rfl
@[simp] theorem State.respondInReset_draws (s : State) (x : Txn) : (s.respondInReset x).draws = s.draws + 1 := rfl
@[simp] theorem State.respondInReset_epoch (s : State) (x : Txn) : (s.respondInReset x).epoch = s.epoch := rfl

/-! ### applyReset -/

@[simp] theorem State.applyReset_cfg (s : State) : (s.applyReset).cfg = s.cfg := rfl
@[simp] theorem State.applyReset_rstN (s : State) : (s.applyReset).rstN = s.rstN := rfl
@[simp] theorem State.applyReset_ie (s : State) : (s.applyReset).ie = false := rfl
@[simp] theorem State.applyReset_phase (s : State) : (s.applyReset).phase = .idle := rfl
@[simp] theorem State.applyReset_done (s : State) : (s.applyReset).done = false := rfl
@[simp] theorem State.applyReset_ovr (s : State) : (s.applyReset).ovr = false := rfl
@[simp] theorem State.applyReset_err (s : State) : (s.applyReset).err = none := rfl
@[simp] theorem State.applyReset_src (s : State) : (s.applyReset).src = 0#32 := rfl
@[simp] theorem State.applyReset_dst (s : State) : (s.applyReset).dst = 0#32 := rfl
@[simp] theorem State.applyReset_len (s : State) : (s.applyReset).len = 0#32 := rfl
@[simp] theorem State.applyReset_outlen (s : State) : (s.applyReset).outlen = 0#32 := rfl
@[simp] theorem State.applyReset_priorLo (s : State) : (s.applyReset).priorLo = 0#32 := rfl
@[simp] theorem State.applyReset_priorHi (s : State) : (s.applyReset).priorHi = 0#32 := rfl
@[simp] theorem State.applyReset_h (s : State) : (s.applyReset).h = iv := rfl
@[simp] theorem State.applyReset_buf (s : State) : (s.applyReset).buf = [] := rfl
@[simp] theorem State.applyReset_bus (s : State) : (s.applyReset).bus = none := rfl
@[simp] theorem State.applyReset_inputs (s : State) : (s.applyReset).inputs = s.inputs := rfl
@[simp] theorem State.applyReset_turns (s : State) : (s.applyReset).turns = s.turns := rfl
@[simp] theorem State.applyReset_draws (s : State) : (s.applyReset).draws = s.draws + 1 := rfl
@[simp] theorem State.applyReset_epoch (s : State) : (s.applyReset).epoch = s.epoch + 1 := rfl

/-! ### Data -/

@[simp] theorem State.data_h (s : State) : s.data.h = s.h := rfl
@[simp] theorem State.data_buf (s : State) : s.data.buf = s.buf := rfl
@[simp] theorem State.data_outlen (s : State) : s.data.outlen = s.outlen := rfl
@[simp] theorem Data.memWrite_h (d : Data) (a : Nat) (v : List Byte) : (d.memWrite a v).h = d.h := rfl
@[simp] theorem Data.memWrite_buf (d : Data) (a : Nat) (v : List Byte) : (d.memWrite a v).buf = d.buf.setBytes a v := rfl
@[simp] theorem Data.memWrite_outlen (d : Data) (a : Nat) (v : List Byte) : (d.memWrite a v).outlen = d.outlen := rfl

/-! ### The phase as a Bool -/

@[simp] theorem State.busy_eq_true (s : State) : s.busy = true ↔ s.phase = .busy := by
  simp [State.busy]

@[simp] theorem State.busy_eq_false (s : State) : s.busy = false ↔ s.phase = .idle := by
  cases h : s.phase <;> simp [State.busy, h]

end Sys2Proof.Machine
end

