-- ==== Sys2Proof/Laws/Memory.lean ====
section
/-!
SUPPORT. Laws of BUF: read after write, what a write leaves alone, and the canonical form.
-/

namespace Sys2Proof.Machine

theorem Memory.byteAt_setByte (m : Memory) (a x : Nat) (b : Byte) :
    (m.setByte a b).byteAt x = if x = a then some b else m.byteAt x := by
  induction m with
  | nil => simp [Memory.setByte, Memory.byteAt, eq_comm]
  | cons c rest ih =>
    obtain ⟨y, v⟩ := c
    simp only [Memory.setByte]
    split_ifs with h1 h2 h2 <;> grind [Memory.byteAt]

/-- What a multi-byte write leaves at every address. -/
theorem Memory.byteAt_setBytes (m : Memory) (a x : Nat) (bs : List Byte) :
    (m.setBytes a bs).byteAt x = if a ≤ x ∧ x < a + bs.length then bs[x - a]? else m.byteAt x := by
  induction bs generalizing m a with
  | nil => simp [Memory.setBytes]
  | cons b bs ih =>
    simp only [Memory.setBytes, ih, Memory.byteAt_setByte, List.length_cons]
    by_cases h0 : x = a
    · subst h0; simp
    · by_cases h1 : a + 1 ≤ x ∧ x < a + 1 + bs.length
      · have : x - a = (x - (a + 1)) + 1 := by omega
        rw [if_pos h1, if_pos (by omega), this, List.getElem?_cons_succ]
      · rw [if_neg h1, if_neg h0, if_neg (by omega)]

theorem Memory.wf_cons (x : Nat) (v : Byte) (m : Memory) :
    Memory.wf ((x, v) :: m) = true ↔ (∀ c ∈ m.head?, x < c.1) ∧ m.wf = true := by
  cases m with
  | nil => simp [Memory.wf]
  | cons c rest => obtain ⟨y, u⟩ := c; simp [Memory.wf]

theorem Memory.head_setByte (m : Memory) (a : Nat) (b : Byte) :
    ∀ c ∈ (m.setByte a b).head?, c.1 = a ∨ ∃ c' ∈ m.head?, c.1 = c'.1 := by
  cases m with
  | nil => simp [Memory.setByte]
  | cons c rest =>
    obtain ⟨x, v⟩ := c
    simp only [Memory.setByte]
    split_ifs <;> simp

/-- Writing a byte keeps the canonical form. -/
theorem Memory.wf_setByte (m : Memory) (a : Nat) (b : Byte) (h : m.wf = true) : (m.setByte a b).wf = true := by
  induction m with
  | nil => simp [Memory.setByte, Memory.wf]
  | cons c rest ih =>
    obtain ⟨x, v⟩ := c
    obtain ⟨hx, hr⟩ := (Memory.wf_cons x v rest).1 h
    simp only [Memory.setByte]
    split_ifs with h1 h2
    · exact (Memory.wf_cons _ _ _).2 ⟨by simpa using h1, h⟩
    · exact (Memory.wf_cons _ _ _).2 ⟨fun c hc => h2 ▸ hx c hc, hr⟩
    · refine (Memory.wf_cons _ _ _).2 ⟨fun c hc => ?_, ih hr⟩
      obtain h3 | ⟨c', hc', h3⟩ := Memory.head_setByte rest a b c hc
      · omega
      · exact h3 ▸ hx c' hc'

/-- Writing bytes keeps the canonical form. -/
theorem Memory.wf_setBytes (m : Memory) (a : Nat) (bs : List Byte) (h : m.wf = true) :
    (m.setBytes a bs).wf = true := by
  induction bs generalizing m a with
  | nil => exact h
  | cons b bs ih => exact ih _ _ (Memory.wf_setByte m a b h)

theorem Memory.within_setByte (m : Memory) (a n : Nat) (b : Byte) (h : m.within n = true) (ha : a < n) :
    (m.setByte a b).within n = true := by
  induction m with
  | nil => simpa [Memory.setByte, Memory.within] using ha
  | cons c rest ih =>
    obtain ⟨x, v⟩ := c
    obtain ⟨hx, hr⟩ : x < n ∧ rest.all (fun c => decide (c.1 < n)) = true := by
      simpa only [Memory.within, List.all_cons, Bool.and_eq_true, decide_eq_true_eq] using h
    simp only [Memory.within] at ih ⊢
    simp only [Memory.setByte]
    split_ifs
    · rw [List.all_cons, List.all_cons, hr]; simp [ha, hx]
    · rw [List.all_cons, hr]; simp [ha]
    · rw [List.all_cons, ih hr]; simp [hx]

/-- A write inside BUF lists only BUF's addresses. -/
theorem Memory.within_setBytes (m : Memory) (a n : Nat) (bs : List Byte) (h : m.within n = true)
    (ha : a + bs.length ≤ n) : (m.setBytes a bs).within n = true := by
  induction bs generalizing m a with
  | nil => exact h
  | cons b bs ih =>
    simp only [List.length_cons] at ha
    exact ih _ _ (Memory.within_setByte m a n b h (by omega)) (by omega)

/-! ### Reading BUF through the state -/

/-- A byte depends on the written bytes and the epoch alone. -/
theorem State.byte_congr {s t : State} (hb : t.buf = s.buf) (he : t.epoch = s.epoch) (a : Nat) :
    t.byte a = s.byte a := by
  simp [State.byte, hb, he]

theorem State.memRead_congr {s t : State} (hb : t.buf = s.buf) (he : t.epoch = s.epoch) (a n : Nat) :
    t.memRead a n = s.memRead a n := by
  simp [State.memRead, State.byte_congr hb he]

/-- What a write of BUF leaves at every byte. -/
theorem State.byte_of_setBytes {s t : State} {a : Nat} {bs : List Byte} (hb : t.buf = s.buf.setBytes a bs)
    (he : t.epoch = s.epoch) (x : Nat) :
    t.byte x = if a ≤ x ∧ x < a + bs.length then bs.getD (x - a) 0#8 else s.byte x := by
  simp only [State.byte, hb, he, Memory.byteAt_setBytes]
  split_ifs with h
  · have : x - a < bs.length := by omega
    simp [List.getD_eq_getElem?_getD, List.getElem?_eq_getElem this]
  · rfl

@[simp] theorem State.memRead_length (s : State) (a n : Nat) : (s.memRead a n).length = n := by
  simp [State.memRead]

theorem State.memRead_getElem? (s : State) (a n i : Nat) :
    (s.memRead a n)[i]? = if i < n then some (s.byte (a + i)) else none := by
  simp only [State.memRead, List.getElem?_map]
  split_ifs with h
  · simp [List.getElem?_range h]
  · simp; omega

theorem State.memRead_getD (s : State) (a n i : Nat) (h : i < n) : (s.memRead a n).getD i 0#8 = s.byte (a + i) := by
  rw [List.getD_eq_getElem?_getD, State.memRead_getElem?, if_pos h, Option.getD_some]

/-- The bytes just written are read back. -/
theorem State.memRead_of_setBytes {s t : State} {a : Nat} {bs : List Byte} (hb : t.buf = s.buf.setBytes a bs)
    (he : t.epoch = s.epoch) : t.memRead a bs.length = bs := by
  apply List.ext_getElem?
  intro i
  rw [State.memRead_getElem?]
  split_ifs with h
  · rw [State.byte_of_setBytes hb he, if_pos (by omega)]
    simp [List.getElem?_eq_getElem h]
  · exact (List.getElem?_eq_none (by omega)).symm

/-- A slice of what was read is a shorter read further up. -/
theorem State.memRead_slice (s : State) (a n i m : Nat) (h : i + m ≤ n) :
    ((s.memRead a n).drop i).take m = s.memRead (a + i) m := by
  apply List.ext_getElem?
  intro j
  simp only [List.getElem?_take, List.getElem?_drop, State.memRead_getElem?]
  split_ifs <;> first | rfl | omega | (congr 2; omega)

theorem State.memRead_zero (s : State) (a : Nat) : s.memRead a 0 = [] := rfl

/-- A write of BUF leaves every byte outside its range. -/
theorem sameBytesOutside_of_setBytes {s t : State} {a : Nat} {bs : List Byte} (hb : t.buf = s.buf.setBytes a bs)
    (he : t.epoch = s.epoch) : SameBytesOutside s t a bs.length := by
  intro x hx
  rw [State.byte_of_setBytes hb he, if_neg (by omega)]

theorem sameBytes_of_buf_eq {s t : State} (hb : t.buf = s.buf) (he : t.epoch = s.epoch) : SameBytes s t :=
  State.byte_congr hb he

end Sys2Proof.Machine
end

