-- ==== Sys2Proof/Laws/Bus.lean ====
section
/-!
SUPPORT. The register map and what one host action can do, said once.
-/

namespace Sys2Proof.Machine

/-- Each register's offset selects it. -/
theorem regAt_offset (r : Reg) : regAt r.offset.toNat = some r := by
  cases r with
  | h i => fin_cases i <;> rfl
  | _ => rfl

theorem Reg.offset_lt (r : Reg) : r.offset.toNat < 0x1000 := by
  cases r with
  | h i => fin_cases i <;> decide
  | _ => decide

@[simp] theorem decodeOffset_offset (c : Config) (r : Reg) : decodeOffset c r.offset = some (.reg r) := by
  rw [decodeOffset, if_pos r.offset_lt, regAt_offset]; rfl

/-- Only a register's own offset selects it. -/
theorem offset_of_regAt {n : Nat} {r : Reg} (h : regAt n = some r) : n = r.offset.toNat := by
  unfold regAt at h
  split at h <;> first
    | (simp only [Option.some.injEq] at h; subst h; rfl)
    | simp at h

/-- What a mapped offset can be (R24). -/
theorem decodeOffset_cases {c : Config} {a : Offset} {t : Target} (h : decodeOffset c a = some t) :
    (∃ r, t = .reg r ∧ a = r.offset) ∨
    (∃ n, t = .bufWord n ∧ a.toNat = 0x1000 + n ∧ n % 4 = 0 ∧ n + 4 ≤ c.bufSize) := by
  unfold decodeOffset at h
  split_ifs at h with h1 h2
  · cases hr : regAt a.toNat with
    | none => simp [hr] at h
    | some r =>
      simp only [hr, Option.map_some, Option.some.injEq] at h
      exact .inl ⟨r, h.symm, BitVec.eq_of_toNat_eq (offset_of_regAt hr)⟩
  · simp only [Option.some.injEq] at h
    exact .inr ⟨a.toNat - 0x1000, h.symm, by omega, by omega, by omega⟩

theorem decodeOffset_bufWord {c : Config} {a : Offset} {n : Nat} (ha : a.toNat = 0x1000 + n) (h4 : n % 4 = 0)
    (hn : n + 4 ≤ c.bufSize) : decodeOffset c a = some (.bufWord n) := by
  rw [decodeOffset, if_neg (by omega), if_pos (by omega)]
  simp [ha]

/-- A read changes nothing but the response and the draw counter. -/
theorem State.busRead_cases (s : State) (a : Offset) :
    (∃ d r, s.busRead a = s.respond d r) ∨ s.busRead a = s.respondUnspecified := by
  unfold State.busRead
  split
  · exact .inl ⟨_, _, rfl⟩
  · split_ifs
    · exact .inr rfl
    · exact .inl ⟨_, _, rfl⟩

/-- What a write can do: nothing but the response, set OVR (while BUSY, at an offset R40 drops), or the performed write. -/
theorem State.busWrite_cases (s : State) (a : Offset) (v : Word) :
    (∃ r, s.busWrite a v = s.respond none r) ∨
    (s.phase = .busy ∧ (∃ t, decodeOffset s.cfg a = some t ∧ t.dropsWhileBusy = true) ∧
      s.busWrite a v = ({ s with ovr := true } : State).respond none .ok) ∨
    (∃ t, decodeOffset s.cfg a = some t ∧ (s.phase = .busy → t.dropsWhileBusy = false) ∧
      s.busWrite a v = (s.writeTarget t v).respond none .ok) := by
  unfold State.busWrite
  split
  · exact .inl ⟨_, rfl⟩
  · rename_i t ht
    split_ifs with hb
    · simp only [Bool.and_eq_true, State.busy_eq_true] at hb
      exact .inr (.inl ⟨hb.1, ⟨t, ht, hb.2⟩, rfl⟩)
    · refine .inr (.inr ⟨t, ht, fun hp => ?_, rfl⟩)
      simpa [(State.busy_eq_true s).2 hp] using hb

/-- What a performed write can do, by target. -/
theorem State.writeTarget_cases (s : State) (t : Target) (v : Word) :
    s.writeTarget t v = s ∨
    (t = .reg .ctrl ∧ s.writeTarget t v = s.writeCtrl v) ∨
    (t = .reg .status ∧ s.writeTarget t v = s.writeStatus v) ∨
    (t = .reg .cmd ∧ s.writeTarget t v = s.accept v) ∨
    (t.dropsWhileBusy = true ∧ t ≠ .reg .cmd ∧
      ∃ src dst len priorLo priorHi h buf, s.writeTarget t v =
        { s with src := src, dst := dst, len := len, priorLo := priorLo, priorHi := priorHi, h := h, buf := buf } ∧
        (buf = s.buf ∨ ∃ n, t = .bufWord n ∧ buf = s.buf.setBytes n (beBytes 4 v.toNat))) := by
  cases t with
  | bufWord n => exact .inr (.inr (.inr (.inr ⟨rfl, by simp, _, _, _, _, _, _, _, rfl, .inr ⟨n, rfl, rfl⟩⟩)))
  | reg r =>
    cases r <;> first
      | exact .inl rfl
      | exact .inr (.inl ⟨rfl, rfl⟩)
      | exact .inr (.inr (.inl ⟨rfl, rfl⟩))
      | exact .inr (.inr (.inr (.inl ⟨rfl, rfl⟩)))
      | exact .inr (.inr (.inr (.inr ⟨rfl, by simp, _, _, _, _, _, _, _, rfl, .inl rfl⟩)))

/-! ### Transactions out of reset -/

theorem State.transact_read {s : State} (h : s.rstN = true) (a : Offset) : s.transact (.read a) = s.busRead a := by
  simp only [State.transact, h, if_true]

theorem State.transact_write {s : State} (h : s.rstN = true) (a : Offset) (v : Word) :
    s.transact (.write a v) = s.busWrite a v := by
  simp only [State.transact, h, if_true]

theorem State.transact_inReset {s : State} (h : s.rstN = false) (x : Txn) : s.transact x = s.respondInReset x := by
  cases x <;> simp [State.transact, h]

theorem State.busRead_value {s : State} {a : Offset} {t : Target} (hd : decodeOffset s.cfg a = some t)
    (h : (s.busy && t.unspecifiedWhileBusy) = false) : s.busRead a = s.respond (some (s.readTarget t)) .ok := by
  simp only [State.busRead, hd, h]; rfl

theorem State.busRead_unspecified {s : State} {a : Offset} {t : Target} (hd : decodeOffset s.cfg a = some t)
    (h : (s.busy && t.unspecifiedWhileBusy) = true) : s.busRead a = s.respondUnspecified := by
  simp only [State.busRead, hd, h]; rfl

theorem State.busWrite_performed {s : State} {a : Offset} {t : Target} (hd : decodeOffset s.cfg a = some t)
    (h : (s.busy && t.dropsWhileBusy) = false) (v : Word) :
    s.busWrite a v = (s.writeTarget t v).respond none .ok := by
  simp only [State.busWrite, hd, h]; rfl

theorem State.busWrite_dropped {s : State} {a : Offset} {t : Target} (hd : decodeOffset s.cfg a = some t)
    (h : (s.busy && t.dropsWhileBusy) = true) (v : Word) :
    s.busWrite a v = ({ s with ovr := true } : State).respond none .ok := by
  simp only [State.busWrite, hd, h]; rfl

/-- The response of POLL's read is STATUS, when the HXE is out of reset. -/
theorem State.transact_readStatus (s : State) (h : s.rstN = true) :
    s.transact (.read Reg.status.offset) = s.respond (some s.statusWord) .ok := by
  simp [State.transact, h, State.busRead, Target.unspecifiedWhileBusy, State.readTarget, State.readReg]

@[simp] theorem State.statusWord_bit0 (s : State) : s.statusWord[0] = s.busy := by
  rw [← BitVec.getLsbD_eq_getElem, State.statusWord, BitVec.getLsbD_append]
  cases s.busy <;> rfl

/-- POLL out of reset: it answers STATUS and stays next in line exactly while BUSY = 1. -/
theorem State.hostStep_poll (s : State) (h : s.rstN = true) :
    s.hostStep .poll =
      { s with bus := some { rdata := some s.statusWord, resp := .ok },
               inputs := if s.busy then .poll :: s.inputs else s.inputs } := by
  simp [State.hostStep, State.transact_readStatus s h, State.lastReadBusy, State.respond]

/-! ### One host action, said once -/

/-- The targets R40 drops are at the offsets it names. -/
theorem droppedOffset_of_target {c : Config} {a : Offset} {t : Target} (hd : decodeOffset c a = some t)
    (ht : t.dropsWhileBusy = true) : DroppedOffset c a := by
  unfold DroppedOffset
  obtain ⟨r, rfl, rfl⟩ | ⟨n, rfl, h1, h2, h3⟩ := decodeOffset_cases hd
  · cases r with
    | h i =>
      right; right; right; right; right; right; left
      clear hd ht
      fin_cases i <;> decide
    | _ => first
      | (simp [Reg.offset]; done)
      | simp [Target.dropsWhileBusy] at ht
  · omega

/-- Everything one host action can do: drive the reset; change only the response, the waiting actions and the draw counter;
be a write dropped while BUSY; or be a write performed out of reset. -/
theorem State.hostStep_cases (s : State) (op : HostOp) :
    (op.resets s ∧ ∃ b, s.hostStep op = { s.applyReset with rstN := b }) ∨
    (∃ bus inputs draws, s.hostStep op = { s with bus := bus, inputs := inputs, draws := draws }) ∨
    (∃ a v, op = .txn (.write a v) ∧ s.phase = .busy ∧ DroppedOffset s.cfg a ∧
      s.hostStep op = ({ s with ovr := true } : State).respond none .ok) ∨
    (∃ a v t, op = .txn (.write a v) ∧ s.rstN = true ∧ decodeOffset s.cfg a = some t ∧
      (s.phase = .busy → t.dropsWhileBusy = false) ∧ s.hostStep op = (s.writeTarget t v).respond none .ok) := by
  have hread : ∀ a, ∃ bus draws, s.transact (.read a) = { s with bus := bus, draws := draws } := by
    intro a
    by_cases hr : s.rstN = true
    · rw [State.transact_read hr]
      obtain ⟨d, r, h⟩ | h := s.busRead_cases a
      · exact ⟨_, _, h⟩
      · exact ⟨_, _, h⟩
    · rw [State.transact_inReset (by simpa using hr)]; exact ⟨_, _, rfl⟩
  cases op with
  | assertReset => exact .inl ⟨.inl rfl, false, rfl⟩
  | releaseReset =>
    by_cases hr : s.rstN = true
    · exact .inr (.inl ⟨s.bus, s.inputs, s.draws, by simp only [State.hostStep, if_pos hr]⟩)
    · exact .inl ⟨.inr ⟨rfl, by simpa using hr⟩, true, by simp only [State.hostStep, if_neg hr]⟩
  | poll =>
    obtain ⟨bus, draws, h⟩ := hread Reg.status.offset
    refine .inr (.inl ⟨bus, if (s.transact (.read Reg.status.offset)).lastReadBusy then .poll :: s.inputs else s.inputs,
      draws, ?_⟩)
    simp only [State.hostStep]
    rw [h]
  | txn x =>
    cases x with
    | read a =>
      obtain ⟨bus, draws, h⟩ := hread a
      exact .inr (.inl ⟨bus, s.inputs, draws, h⟩)
    | write a v =>
      by_cases hr : s.rstN = true
      · have he : s.hostStep (.txn (.write a v)) = s.busWrite a v := State.transact_write hr a v
        obtain ⟨r, h⟩ | ⟨hp, ⟨t, ht, hd⟩, h⟩ | ⟨t, ht, hd, h⟩ := s.busWrite_cases a v
        · exact .inr (.inl ⟨_, s.inputs, s.draws, he.trans h⟩)
        · exact .inr (.inr (.inl ⟨a, v, rfl, hp, droppedOffset_of_target ht hd, he.trans h⟩))
        · exact .inr (.inr (.inr ⟨a, v, t, rfl, hr, ht, hd, he.trans h⟩))
      · exact .inr (.inl ⟨_, s.inputs, _, State.transact_inReset (by simpa using hr) _⟩)

end Sys2Proof.Machine
end

