-- ==== Sys2Proof/Laws/Exec.lean ====
section
/-!
SUPPORT. What Complete can do, said once: the end a command comes to, and the frame of every command.
-/

namespace Sys2Proof.Machine

/-- `Exec` of each command as one function (R118). -/
def cmdResult (i : Instr) (s : State) : CmdResult :=
  match i with
  | .nop => nopResult s
  | .pad => padResult s
  | .expand => expandResult s
  | .compress => compressResult s
  | .loadIv => loadIvResult s
  | .importHex => importHexResult s
  | .importBytes => importBytesResult s
  | .exportHex => exportHexResult s
  | .exportBytes => exportBytesResult s

/-- Every command completes: `exec` answers a next state on every state. -/
theorem exec_eq_complete (i : Instr) (s : State) : exec i s = .next (s.complete (cmdResult i s)) := by
  cases i <;> rfl

theorem exec_next_iff {i : Instr} {s t : State} : exec i s = .next t ↔ t = s.complete (cmdResult i s) := by
  rw [exec_eq_complete]
  constructor
  · intro h; injection h with h; exact h.symm
  · intro h; rw [h]

/-- The two ends of a command. -/
theorem State.complete_cases (s : State) (r : CmdResult) :
    (∃ d, r = .ok d ∧ s.complete r = s.succeed d) ∨ (∃ e, r = .error e ∧ s.complete r = s.failCommand e) := by
  cases r with
  | ok d => exact .inl ⟨d, rfl, rfl⟩
  | error e => exact .inr ⟨e, rfl, rfl⟩

@[simp] theorem State.complete_ok (s : State) (d : Data) : s.complete (.ok d) = s.succeed d := rfl
@[simp] theorem State.complete_error (s : State) (e : CmdError) : s.complete (.error e) = s.failCommand e := rfl

/-- What no command writes, whatever its end. -/
theorem State.complete_keepsHostSide (s : State) (r : CmdResult) : KeepsHostSide s (s.complete r) := by
  cases r <;> exact ⟨rfl, rfl, rfl, rfl, rfl, rfl, rfl, rfl, rfl, rfl, rfl, rfl, rfl⟩

@[simp] theorem State.complete_phase (s : State) (r : CmdResult) : (s.complete r).phase = .idle := by
  cases r <;> rfl

@[simp] theorem State.complete_done (s : State) (r : CmdResult) : (s.complete r).done = true := by
  cases r <;> rfl

@[simp] theorem State.complete_cfg (s : State) (r : CmdResult) : (s.complete r).cfg = s.cfg := by
  cases r <;> rfl

@[simp] theorem State.complete_rstN (s : State) (r : CmdResult) : (s.complete r).rstN = s.rstN := by
  cases r <;> rfl

@[simp] theorem State.complete_ie (s : State) (r : CmdResult) : (s.complete r).ie = s.ie := by
  cases r <;> rfl

@[simp] theorem State.complete_ovr (s : State) (r : CmdResult) : (s.complete r).ovr = s.ovr := by
  cases r <;> rfl

@[simp] theorem State.complete_src (s : State) (r : CmdResult) : (s.complete r).src = s.src := by
  cases r <;> rfl

@[simp] theorem State.complete_dst (s : State) (r : CmdResult) : (s.complete r).dst = s.dst := by
  cases r <;> rfl

@[simp] theorem State.complete_len (s : State) (r : CmdResult) : (s.complete r).len = s.len := by
  cases r <;> rfl

@[simp] theorem State.complete_priorLo (s : State) (r : CmdResult) : (s.complete r).priorLo = s.priorLo := by
  cases r <;> rfl

@[simp] theorem State.complete_priorHi (s : State) (r : CmdResult) : (s.complete r).priorHi = s.priorHi := by
  cases r <;> rfl

@[simp] theorem State.complete_bus (s : State) (r : CmdResult) : (s.complete r).bus = s.bus := by
  cases r <;> rfl

@[simp] theorem State.complete_inputs (s : State) (r : CmdResult) : (s.complete r).inputs = s.inputs := by
  cases r <;> rfl

@[simp] theorem State.complete_turns (s : State) (r : CmdResult) : (s.complete r).turns = s.turns := by
  cases r <;> rfl

@[simp] theorem State.complete_epoch (s : State) (r : CmdResult) : (s.complete r).epoch = s.epoch := by
  cases r <;> rfl

/-- A result with data is a success with that data. -/
theorem succeeds_of_result {i : Instr} {s : State} {d : Data} {post : State → Prop} (h : cmdResult i s = .ok d)
    (hp : post (s.succeed d)) : Succeeds i s post :=
  ⟨s.succeed d, by rw [exec_eq_complete, h]; rfl, ⟨rfl, rfl, rfl⟩, State.complete_keepsHostSide s (.ok d), hp⟩

/-- A result with an error is a failure that changes only STATUS. -/
theorem failsWith_of_result {i : Instr} {s : State} {e : CmdError} (h : cmdResult i s = .error e) : FailsWith i s e :=
  ⟨s.failCommand e, by rw [exec_eq_complete, h]; rfl, ⟨rfl, rfl, rfl⟩, State.complete_keepsHostSide s (.error e), rfl,
    rfl, rfl, State.byte_congr rfl rfl⟩

/-- The range check as a Prop (R117). -/
@[simp] theorem State.inRange_eq_true (s : State) (a n : Nat) : s.inRange a n = true ↔ a + n ≤ s.cfg.bufSize := by
  simp [State.inRange]

@[simp] theorem State.inRange_eq_false (s : State) (a n : Nat) : s.inRange a n = false ↔ ¬ a + n ≤ s.cfg.bufSize := by
  simp [State.inRange]

/-! ### Lengths of what commands write -/

@[simp] theorem beBytes_length (n v : Nat) : (beBytes n v).length = n := by
  simp [beBytes]

@[simp] theorem hexText_length (x : Word) : (hexText x).length = 8 := by
  simp [hexText]

@[simp] theorem wordsBytes_length (ws : List Word) : (wordsBytes ws).length = 4 * ws.length := by
  induction ws with
  | nil => rfl
  | cons w ws ih =>
    rw [wordsBytes] at ih ⊢
    rw [List.flatMap_cons, List.length_append, ih, beBytes_length, List.length_cons]
    omega

theorem flatMap_hexText_length (ws : List Word) : (ws.flatMap hexText).length = 8 * ws.length := by
  induction ws with
  | nil => rfl
  | cons w ws ih =>
    rw [List.flatMap_cons, List.length_append, ih, hexText_length, List.length_cons]
    omega

@[simp] theorem stateHex_length (x : HashState) : (stateHex x).length = 64 := by
  rw [stateHex, flatMap_hexText_length]; rfl

@[simp] theorem stateBytes_length (x : HashState) : (stateBytes x).length = 32 := by
  rw [stateBytes, wordsBytes_length]; rfl

theorem extendSchedule_length (n : Nat) (ws : List Word) : (extendSchedule n ws).length = n + ws.length := by
  induction n generalizing ws with
  | zero => simp [extendSchedule]
  | succ n ih => rw [extendSchedule, ih, List.length_append, List.length_singleton]; omega

@[simp] theorem expandBlock_length (block : List Byte) : (expandBlock block).length = 64 := by
  rw [expandBlock, extendSchedule_length, blockWords, List.length_map, List.length_range]

@[simp] theorem padBytes_length (m : List Byte) (p : Nat) : (padBytes m p).length = padLen m.length p := by
  simp only [padBytes, padLen, List.length_append, List.length_replicate, List.length_singleton, beBytes_length]

/-- What a successful command's data can be: OUTLEN is as before but for PAD, and any write of BUF lies inside it. -/
theorem cmdResult_ok_cases {i : Instr} {s : State} {d : Data} (h : cmdResult i s = .ok d) :
    (d.outlen = s.outlen ∨
      (i = .pad ∧ d.outlen = BitVec.ofNat 32 (padLen s.opLen s.opPrior) ∧
        padLen s.opLen s.opPrior ≤ s.cfg.bufSize)) ∧
    (d.buf = s.buf ∨ ∃ a bs, d.buf = s.buf.setBytes a bs ∧ a + bs.length ≤ s.cfg.bufSize) := by
  cases i with
  | nop => cases h; exact ⟨.inl rfl, .inl rfl⟩
  | loadIv => cases h; exact ⟨.inl rfl, .inl rfl⟩
  | compress =>
    simp only [cmdResult, compressResult] at h
    split_ifs at h
    cases h; exact ⟨.inl rfl, .inl rfl⟩
  | importHex =>
    simp only [cmdResult, importHexResult] at h
    split_ifs at h
    cases h; exact ⟨.inl rfl, .inl rfl⟩
  | importBytes =>
    simp only [cmdResult, importBytesResult] at h
    split_ifs at h
    cases h; exact ⟨.inl rfl, .inl rfl⟩
  | pad =>
    simp only [cmdResult, padResult] at h
    split_ifs at h with h1 h2
    cases h
    rw [Bool.not_eq_true', State.inRange_eq_false, not_not] at h2
    refine ⟨.inr ⟨rfl, rfl, by omega⟩, .inr ⟨_, _, Data.memWrite_buf _ _ _, ?_⟩⟩
    rwa [padBytes_length, State.memRead_length]
  | expand =>
    simp only [cmdResult, expandResult] at h
    split_ifs at h with h1 h2
    cases h
    rw [Bool.not_eq_true', State.inRange_eq_false, not_not] at h2
    refine ⟨.inl rfl, .inr ⟨_, _, Data.memWrite_buf _ _ _, ?_⟩⟩
    rwa [wordsBytes_length, expandBlock_length]
  | exportHex =>
    simp only [cmdResult, exportHexResult] at h
    split_ifs at h with h1
    cases h
    rw [Bool.not_eq_true', State.inRange_eq_false, not_not] at h1
    refine ⟨.inl rfl, .inr ⟨_, _, Data.memWrite_buf _ _ _, ?_⟩⟩
    rwa [stateHex_length]
  | exportBytes =>
    simp only [cmdResult, exportBytesResult] at h
    split_ifs at h with h1
    cases h
    rw [Bool.not_eq_true', State.inRange_eq_false, not_not] at h1
    refine ⟨.inl rfl, .inr ⟨_, _, Data.memWrite_buf _ _ _, ?_⟩⟩
    rwa [stateBytes_length]

end Sys2Proof.Machine
end

