-- ==== Sys2Proof/Laws/Codec.lean ====
section
/-!
SUPPORT. Small laws of the codec and of the schedule that several proofs share.
-/

namespace Sys2Proof.Machine

/-- A hex digit's value is below 16 (R170). -/
theorem hexVal_lt {c : Byte} {v : Nat} (h : hexVal c = some v) : v < 16 := by
  unfold hexVal at h
  split_ifs at h <;> (simp only [Option.some.injEq] at h; omega)

/-- The spelling of a digit reads back as that digit (R170, R171). -/
theorem hexVal_hexChar {v : Nat} (h : v < 16) : hexVal (hexChar v) = some v := by
  interval_cases v <;> rfl

/-- Word i of a big-endian concatenation is its four bytes. -/
theorem wordsBytes_slice (ws : List Word) (i : Nat) (hi : i < ws.length) :
    ((wordsBytes ws).drop (4 * i)).take 4 = beBytes 4 (ws.getD i 0#32).toNat := by
  induction ws generalizing i with
  | nil => simp at hi
  | cons w ws ih =>
    have hcons : wordsBytes (w :: ws) = beBytes 4 w.toNat ++ wordsBytes ws := rfl
    rw [hcons]
    cases i with
    | zero => rw [List.drop_zero, List.take_left' (by simp)]; rfl
    | succ i =>
      rw [show 4 * (i + 1) = (beBytes 4 w.toNat).length + 4 * i by simp; omega, List.drop_append,
        List.drop_eq_nil_of_le (by simp), List.nil_append, Nat.add_sub_cancel_left, List.getD_cons_succ]
      exact ih i (by simpa using hi)

/-- Extending a schedule keeps the words it has. -/
theorem extendSchedule_getD (n : Nat) (ws : List Word) (i : Nat) (h : i < ws.length) :
    (extendSchedule n ws).getD i 0#32 = ws.getD i 0#32 := by
  induction n generalizing ws with
  | zero => rfl
  | succ n ih =>
    rw [extendSchedule, ih _ (by rw [List.length_append]; omega)]
    simp [List.getD_eq_getElem?_getD, List.getElem?_append_left h]

end Sys2Proof.Machine
end

