-- ==== Sys2Proof/Laws/Datapath.lean ====
section
/-!
SUPPORT. Laws of the sequenced form of COMPRESS: how its loops unfold, and what one round and one fold change.
-/

namespace Sys2Proof.Machine

@[simp] theorem State.repeated_zero (f : State → State) (s : State) : State.repeated f 0 s = s := rfl

theorem State.repeated_succ (f : State → State) (n : Nat) (s : State) :
    State.repeated f (n + 1) s = State.repeated f n (f s) := by
  rw [State.repeated]

@[simp] theorem State.runRounds_zero (s : State) : s.runRounds 0 = s := rfl

theorem State.runRounds_succ (n : Nat) (s : State) : s.runRounds (n + 1) = s.roundStep.runRounds n := by
  rw [State.runRounds, State.repeated_succ, State.runRounds]

@[simp] theorem State.runBlocks_zero (s : State) : s.runBlocks 0 = s := rfl

theorem State.runBlocks_succ (n : Nat) (s : State) : s.runBlocks (n + 1) = s.runBlock.runBlocks n := by
  rw [State.runBlocks, State.repeated_succ, State.runBlocks]

/-- A round changes only the working registers and t. -/
theorem State.roundStep_eq (s : State) :
    s.roundStep = { s with work := round s.t.val s.work s.w.toList, t := s.t + 1 } := rfl

/-- A fold changes only H and k. -/
theorem State.foldBlock_eq (s : State) : s.foldBlock = { s with h := s.h.fold s.work, k := s.k + 1 } := rfl

/-- A longer read is a shorter one and the rest. -/
theorem State.memRead_append (s : State) (a n m : Nat) : s.memRead a (n + m) = s.memRead a n ++ s.memRead (a + n) m := by
  apply List.ext_getElem?
  intro i
  rw [List.getElem?_append]
  simp only [State.memRead_getElem?, State.memRead_length]
  split_ifs <;> first | rfl | omega | (congr 2; omega)

end Sys2Proof.Machine
end

