-- ==== Sys2Proof/Laws/PerInstr.lean ====
section
/-!
SUPPORT. Laws of the commands as syntax, one lemma per constructor.
-/

namespace Sys2Proof.Laws.OneWordEach

/-- Each command is one word with RSVD = 0 and its own OP, a legal word, and that word decodes to it (R90, R92, R94). -/
def Statement (i : Instr) : Prop :=
  (encode i).extractLsb' 8 24 = 0#24 ∧ (encode i).extractLsb' 0 8 = i.opcode ∧ wordWf (encode i) = true ∧
    decodeCmd (encode i) = .ok i

theorem nop : Statement .nop := ⟨rfl, rfl, rfl, rfl⟩
theorem pad : Statement .pad := ⟨rfl, rfl, rfl, rfl⟩
theorem expand : Statement .expand := ⟨rfl, rfl, rfl, rfl⟩
theorem compress : Statement .compress := ⟨rfl, rfl, rfl, rfl⟩
theorem loadIv : Statement .loadIv := ⟨rfl, rfl, rfl, rfl⟩
theorem importHex : Statement .importHex := ⟨rfl, rfl, rfl, rfl⟩
theorem importBytes : Statement .importBytes := ⟨rfl, rfl, rfl, rfl⟩
theorem exportHex : Statement .exportHex := ⟨rfl, rfl, rfl, rfl⟩
theorem exportBytes : Statement .exportBytes := ⟨rfl, rfl, rfl, rfl⟩

end Sys2Proof.Laws.OneWordEach
end

