-- ==== Sys2Proof/Laws/Step.lean ====
section
/-!
SUPPORT. What a step can do, said once.
-/

namespace Sys2Proof.Machine

/-- The engine moves only in a BUSY window. -/
theorem State.busy_of_engine {s : State} (h : s.nextAgent = .engine) : s.phase = .busy := by
  unfold State.nextAgent at h
  split_ifs at h with hb
  exact (State.busy_eq_true s).1 hb

theorem State.host_of_idle {s : State} (h : s.phase = .idle) : s.nextAgent = .host := by
  simp [State.nextAgent, (State.busy_eq_false s).2 h]

theorem State.spendTurn_of_busy {s : State} (h : s.phase = .busy) : s.spendTurn = { s with turns := s.turns.tail } := by
  simp [State.spendTurn, (State.busy_eq_true s).2 h]

theorem State.spendTurn_of_idle {s : State} (h : s.phase = .idle) : s.spendTurn = s := by
  simp [State.spendTurn, (State.busy_eq_false s).2 h]

/-- Complete for the captured word: a success or a failure of the state. -/
theorem State.runCommand_eq (s : State) :
    s.runCommand = .next (s.complete (match decodeCmd s.cmd.word with
      | .ok i => cmdResult i s
      | .error _ => .error .illegalCommand)) := by
  unfold State.runCommand
  cases decodeCmd s.cmd.word with
  | ok i => exact exec_eq_complete i s
  | error e => rfl

/-- The step of either agent. -/
theorem step_host {s : State} (h : s.nextAgent = .host) : step s = .next s.spendTurn.hostTurn := by
  simp [step, h]

theorem step_engine {s : State} (h : s.nextAgent = .engine) :
    step s = ({ s with turns := s.turns.tail } : State).runCommand := by
  simp [step, h, State.spendTurn_of_busy (State.busy_of_engine h)]

theorem State.hostTurn_cons {s : State} {op : HostOp} {rest : List HostOp} (h : s.inputs = op :: rest) :
    s.hostTurn = ({ s with inputs := rest } : State).hostStep op := by
  simp only [State.hostTurn, h]

theorem State.hostTurn_nil {s : State} (h : s.inputs = []) : s.hostTurn = s := by
  simp only [State.hostTurn, h]

theorem Phase.busy_of_not_idle {p : Phase} (h : p ≠ .idle) : p = .busy := by
  cases p <;> simp_all

/-- What a step that answers next can have been: nothing (idle, no host action), one host action, or one Complete. -/
theorem step_cases {s t : State} (h : step s = .next t) :
    (s.nextAgent = .host ∧ s.inputs = [] ∧ s.phase = .idle ∧ t = s) ∨
    (∃ op rest turns, s.nextAgent = .host ∧ s.inputs = op :: rest ∧
      t = ({ s with inputs := rest, turns := turns } : State).hostStep op) ∨
    (s.nextAgent = .engine ∧ ∃ s' r, s' = ({ s with turns := s.turns.tail } : State) ∧ t = s'.complete r ∧
      ((∃ i, decodeCmd s.cmd.word = .ok i ∧ r = cmdResult i s') ∨
        (∃ e, decodeCmd s.cmd.word = .error e ∧ r = .error .illegalCommand))) := by
  cases ha : s.nextAgent with
  | host =>
    rw [step_host ha] at h
    injection h with h
    subst h
    by_cases hp : s.phase = .idle
    · rw [State.spendTurn_of_idle hp]
      cases hi : s.inputs with
      | nil => exact .inl ⟨rfl, rfl, hp, State.hostTurn_nil hi⟩
      | cons op rest => exact .inr (.inl ⟨op, rest, s.turns, rfl, rfl, State.hostTurn_cons hi⟩)
    · have hb := Phase.busy_of_not_idle hp
      rw [State.spendTurn_of_busy hb]
      cases hi : s.inputs with
      | nil => simp [State.nextAgent, (State.busy_eq_true s).2 hb, hi] at ha
      | cons op rest => exact .inr (.inl ⟨op, rest, s.turns.tail, rfl, rfl, by rw [State.hostTurn_cons rfl]⟩)
  | engine =>
    rw [step_engine ha, State.runCommand_eq] at h
    injection h with h
    refine .inr (.inr ⟨rfl, _, _, rfl, h.symm, ?_⟩)
    cases hd : decodeCmd s.cmd.word with
    | ok i => exact .inl ⟨i, rfl, rfl⟩
    | error e => exact .inr ⟨e, rfl, rfl⟩

/-- One step of a run, for any machine. -/
theorem run_succ_of_step (M : Host.Core) (n : Nat) (s t : M.State) (h : M.step s = .next t) :
    M.run (n + 1) s = M.run n t := by
  simp [Host.Core.run, h]

/-- One step of a run of the HXE. -/
theorem core_run_succ {s t : State} (n : Nat) (h : step s = .next t) :
    Sys2Proof.core.run (n + 1) s = Sys2Proof.core.run n t :=
  run_succ_of_step Sys2Proof.core n s t h

end Sys2Proof.Machine
end

