-- ==== Sys2Proof/Tests/Slice0.lean ====
section
/-!
SUPPORT. Tests of one step each, with values from the spec's tables and vectors, and for every statement with hypotheses a
witness that meets them.
-/

namespace Sys2Proof.Tests

open Sys2Proof.Machine

/-! ### Small states -/

/-- An idle HXE with operands set. -/
def idleWith (src dst len : Word) (prior : BitVec 64) : State :=
  { State.reset with
    src := src, dst := dst, len := len, priorLo := prior.setWidth 32, priorHi := (prior >>> 32).setWidth 32 }

/-- A command word just accepted, the engine to move. -/
def accepted (word src dst len : Word) (prior : BitVec 64) : State :=
  (idleWith src dst len prior).accept word

/-- Bytes placed in BUF. -/
def withBytes (a : Nat) (bs : List Byte) (s : State) : State :=
  { s with buf := s.buf.setBytes a bs }

/-- A BUSY window in which the host moves next, with one action. -/
def busyHost (op : HostOp) : State :=
  { State.reset.accept 0x00000000#32 with inputs := [op], turns := [.host] }

/-- An idle HXE with one host action waiting. -/
def idleHost (op : HostOp) : State :=
  { State.reset with inputs := [op] }

/-- ASCII text as bytes. -/
def ascii (t : String) : List Byte :=
  t.toList.map fun c => BitVec.ofNat 8 c.toNat

/-- Look at the next state. -/
def seen {α : Type} (o : Host.Outcome State Fault Refusal) (f : State → α) : Option α :=
  match o with
  | .next t => some (f t)
  | _ => none

/-- The 64-byte padded "abc" block (95_test_vectors.md X2). -/
def abcBlock : List Byte :=
  [0x61#8, 0x62#8, 0x63#8, 0x80#8] ++ List.replicate 59 0x00#8 ++ [0x18#8]

/-- The hex digest of "abc" (95_test_vectors.md L1.1). -/
def abcDigest : String :=
  "ba7816bf8f01cfea414140de5dae2223b00361a396177a9cb410ff61f20015ad"

/-! ### Well-formedness -/

theorem test_config_accepts_bounds : ([256, 320, 4096].map fun n => Config.wf { bufSize := n }) = [true, true, true] := by
  decide

theorem test_config_refuses_not_multiple_of_64 : Config.wf { bufSize := 300 } = false := by decide
theorem test_config_refuses_below_256 : Config.wf { bufSize := 192 } = false := by decide
theorem test_config_refuses_above_4096 : Config.wf { bufSize := 4160 } = false := by decide
theorem test_word_refuses_rsvd : wordWf 0x00000100#32 = false := by decide
theorem test_word_refuses_reserved_op : wordWf 0x00000009#32 = false := by decide
theorem test_word_accepts_last_op : wordWf 0x00000008#32 = true := by decide
theorem test_stmt_refuses_unaligned_buf : Stmt.wf (.wr (.buf 2) 0#32) = false := by decide
theorem test_stmt_refuses_buf_outside : Stmt.wf (.rd (.buf 4096)) = false := by decide
theorem test_stmt_refuses_unaligned_wbuf : Stmt.wf (.wbuf 3 [0x00#8]) = false := by decide
theorem test_stmt_refuses_long_wbuf : Stmt.wf (.wbuf 4092 (List.replicate 5 0x00#8)) = false := by decide
theorem test_stmt_refuses_non_ascii : Stmt.wf (.wbufs 0 ['é']) = false := by decide

/-! ### Decoding: each word written out bit by bit from R90 and R92 -/

theorem test_decode_nop : decodeCmd 0b000000000000000000000000_00000000#32 = .ok .nop := rfl
theorem test_decode_pad : decodeCmd 0b000000000000000000000000_00000001#32 = .ok .pad := rfl
theorem test_decode_expand : decodeCmd 0b000000000000000000000000_00000010#32 = .ok .expand := rfl
theorem test_decode_compress : decodeCmd 0b000000000000000000000000_00000011#32 = .ok .compress := rfl
theorem test_decode_loadIv : decodeCmd 0b000000000000000000000000_00000100#32 = .ok .loadIv := rfl
theorem test_decode_importHex : decodeCmd 0b000000000000000000000000_00000101#32 = .ok .importHex := rfl
theorem test_decode_importBytes : decodeCmd 0b000000000000000000000000_00000110#32 = .ok .importBytes := rfl
theorem test_decode_exportHex : decodeCmd 0b000000000000000000000000_00000111#32 = .ok .exportHex := rfl
theorem test_decode_exportBytes : decodeCmd 0b000000000000000000000000_00001000#32 = .ok .exportBytes := rfl

/-- The first reserved OP (R93). -/
theorem test_decode_op9 : decodeCmd 0b000000000000000000000000_00001001#32 = .error .reservedOpcode := rfl

/-- The last reserved OP (R93). -/
theorem test_decode_opFF : decodeCmd 0b000000000000000000000000_11111111#32 = .error .reservedOpcode := rfl

/-- OP 0 with the lowest RSVD bit set is not a NOP (R119). -/
theorem test_decode_rsvd_low : decodeCmd 0b000000000000000000000001_00000000#32 = .error .reservedBits := rfl

/-- OP 3 with the highest RSVD bit set (R93). -/
theorem test_decode_rsvd_high : decodeCmd 0b100000000000000000000000_00000011#32 = .error .reservedBits := rfl

theorem test_table_word : decodeTableWord 32 7 = some .exportHex ∧ decodeTableWord 32 9 = none := by decide

/-! ### Commands, one step each -/

/-- 95_test_vectors.md LC5: STATUS after NOP. -/
theorem test_nop_status : seen (exec .nop (accepted 0x00#32 0#32 0#32 0#32 0)) (·.statusWord) = some 0x00000002#32 := by
  decide

/-- 95_test_vectors.md PD2: "abc" padded. -/
theorem test_pad_abc : padBytes [0x61#8, 0x62#8, 0x63#8] 0 = abcBlock := by decide

/-- PAD of "abc" at 0 to DST = 1: the ranges overlap, and the message is read before it is written (R116, R133). -/
theorem test_pad_step :
    seen (exec .pad (withBytes 0 [0x61#8, 0x62#8, 0x63#8] (accepted 0x01#32 0#32 1#32 3#32 0)))
      (fun t => (t.outlen, t.memRead 0 5, t.byte 64, t.statusWord)) =
    some (64#32, [0x61#8, 0x61#8, 0x62#8, 0x63#8, 0x80#8], 0x18#8, 0x02#32) := by
  decide +kernel

/-- 95_test_vectors.md S1: W[16], W[17] and W[63] of the padded "abc" block. -/
theorem test_expand_abc :
    [16, 17, 63].map ((expandBlock abcBlock).getD · 0#32) = [0x61626380#32, 0x000f0000#32, 0x12b1edeb#32] := by
  decide +kernel

/-- EXPAND with its output one byte too far (R142, R205): STATUS shows BUFFER_RANGE. -/
theorem test_expand_range : seen (exec .expand (accepted 0x02#32 0#32 3841#32 0#32 0)) (·.statusWord) = some 0x52#32 := by
  decide

/-- 95_test_vectors.md X2: the digest of "abc". -/
theorem test_compress_abc :
    seen (exec .compress (withBytes 0 abcBlock (accepted 0x03#32 0#32 0#32 64#32 0))) (·.h.toList) =
    some [0xba7816bf#32, 0x8f01cfea#32, 0x414140de#32, 0x5dae2223#32, 0xb00361a3#32, 0x96177a9c#32, 0xb410ff61#32,
      0xf20015ad#32] := by
  decide +kernel

/-- R206: LEN = 65 with SRC = BUF_SIZE is INTERNAL_ALIGNMENT, not BUFFER_RANGE. -/
theorem test_compress_priority :
    seen (exec .compress (accepted 0x03#32 4096#32 0#32 65#32 0)) (·.statusWord) = some 0x32#32 := by
  decide

/-- R172: H0 and H7 after LOAD_IV. -/
theorem test_loadIv :
    seen (exec .loadIv { accepted 0x04#32 0#32 0#32 0#32 0 with h := HashState.ofFn fun _ => 0#32 })
      (fun t => (t.h.h0, t.h.h7)) = some (0x6a09e667#32, 0x5be0cd19#32) := by
  decide

/-- R173: the example digest. -/
theorem test_importHex :
    seen (exec .importHex (withBytes 0 (ascii abcDigest) (accepted 0x05#32 0#32 0#32 64#32 0)))
      (fun t => (t.h.h0, t.h.h7, t.err)) = some (0xba7816bf#32, 0xf20015ad#32, none) := by
  decide +kernel

/-- 95_test_vectors.md E2: the last character replaced by `g`. -/
theorem test_importHex_not_hex :
    seen (exec .importHex (withBytes 63 [0x67#8] (withBytes 0 (ascii abcDigest) (accepted 0x05#32 0#32 0#32 64#32 0))))
      (fun t => (t.statusWord, t.h)) = some (0x12#32, iv) := by
  decide +kernel

/-- R174: byte order of a word. -/
theorem test_importBytes :
    seen (exec .importBytes (withBytes 4064 ([0x01#8, 0x02#8, 0x03#8, 0x04#8] ++ List.replicate 28 0xFF#8)
      (accepted 0x06#32 4064#32 0#32 0#32 0))) (fun t => (t.h.h0, t.h.h7)) = some (0x01020304#32, 0xFFFFFFFF#32) := by
  decide +kernel

/-- R175: the IV in hex. -/
theorem test_exportHex :
    seen (exec .exportHex (accepted 0x07#32 0#32 4032#32 0#32 0)) (·.memRead 4032 64) =
    some (ascii "6a09e667bb67ae853c6ef372a54ff53a510e527f9b05688c1f83d9ab5be0cd19") := by
  decide +kernel

/-- R176: the first and the last word of the IV. -/
theorem test_exportBytes :
    seen (exec .exportBytes (accepted 0x08#32 0#32 1#32 0#32 0)) (fun t => (t.memRead 1 4, t.memRead 29 4)) =
    some ([0x6a#8, 0x09#8, 0xe6#8, 0x67#8], [0x5b#8, 0xe0#8, 0xcd#8, 0x19#8]) := by
  decide +kernel

/-- R204: an illegal word completes with ERR = 4. -/
theorem test_illegal : seen (step (accepted 0x09#32 0#32 0#32 0#32 0)) (·.statusWord) = some 0x42#32 := by decide

/-! ### The bus, one step each -/

/-- 95_test_vectors.md LC1: ID. -/
theorem test_read_id :
    seen (step (idleHost (.txn (.read 0x000#13)))) (·.bus) =
    some (some { rdata := some 0x48584501#32, resp := .ok }) := by
  decide

/-- 95_test_vectors.md LC9: a write to SRC before Complete is dropped and sets OVR. -/
theorem test_busy_write_dropped :
    seen (step (busyHost (.txn (.write 0x010#13 0x123#32)))) (fun t => (t.src, t.ovr, t.statusWord)) =
    some (0#32, true, 0x05#32) := by
  decide

/-- R61: a host word in BUF, most significant byte at the lowest address. -/
theorem test_buf_write :
    seen (step (idleHost (.txn (.write 0x1FFC#13 0x01020304#32)))) (·.buf) =
    some [(4092, 0x01#8), (4093, 0x02#8), (4094, 0x03#8), (4095, 0x04#8)] := by
  decide

/-- R67: a read above BUF of a smaller configuration is a bus error and returns 0. -/
theorem test_bus_error :
    seen (step { State.resetWith { bufSize := 256 } with inputs := [.txn (.read 0x1100#13)] }) (·.bus) =
    some (some { rdata := some 0#32, resp := .err }) := by
  decide

/-- R96: WBUF pads its last word with zero bytes. -/
theorem test_wbuf :
    Stmt.ops (.wbuf 4 [0x01#8, 0x02#8, 0x03#8, 0x04#8, 0x05#8]) =
    [.txn (.write 0x1004#13 0x01020304#32), .txn (.write 0x1008#13 0x05000000#32)] := by
  decide

/-- R96: the expansion of PAD with a prior length above 2^32. -/
theorem test_pad_statement :
    Stmt.ops (.pad 0x100#32 0#32 3#32 0x100000002#64) =
    [.txn (.write 0x010#13 0#32), .txn (.write 0x018#13 3#32), .txn (.write 0x014#13 0x100#32),
     .txn (.write 0x020#13 2#32), .txn (.write 0x024#13 1#32), .txn (.write 0x00C#13 1#32), .poll] := by
  decide

/-! ### Witnesses: each statement's hypotheses are met -/

theorem witness_RotrMovesEachBit : (0 < 1 ∧ 1 < 32 ∧ 31 < 32) ∧ (rotr 0x00000001#32 1).getLsbD 31 = true := by decide

theorem witness_DecodeEncodeRoundTrip : Instr.wf .exportBytes = true := rfl

theorem witness_IllegalWordsFailWithIllegalCommand :
    (accepted 0x00000100#32 0#32 0#32 0#32 0).nextAgent = .engine ∧
    (accepted 0x00000100#32 0#32 0#32 0#32 0).cmd.word.extractLsb' 8 24 ≠ 0#24 ∧
    (accepted 0x80000000#32 0#32 0#32 0#32 0).cmd.word.extractLsb' 8 24 ≠ 0#24 ∧
    0x09 ≤ ((accepted 0x00000009#32 0#32 0#32 0#32 0).cmd.word.extractLsb' 0 8).toNat ∧
    0x09 ≤ ((accepted 0x000000FF#32 0#32 0#32 0#32 0).cmd.word.extractLsb' 0 8).toNat := by
  decide

theorem witness_StepRunsDecodedCommand :
    (accepted 0x03#32 0#32 0#32 64#32 0).nextAgent = .engine ∧
    decodeCmd (accepted 0x03#32 0#32 0#32 64#32 0).cmd.word = .ok .compress := by
  exact ⟨rfl, rfl⟩

theorem witness_StepPerformsOneHostAction :
    ((idleHost .poll).inputs = [.poll] ∧ (idleHost .poll).phase = .idle) ∧
    ((busyHost .poll).inputs = [.poll] ∧ (busyHost .poll).phase = .busy ∧ (busyHost .poll).turns.head? = some .host) ∧
    (State.reset.phase = .idle ∧ State.reset.inputs = []) := by
  decide

theorem witness_FetchWordRunsNext : decodeTableWord 32 8 = some .exportBytes := by decide

theorem witness_OffsetsSelectTheRegisterMap : Config.default.wf = true ∧ Config.wf { bufSize := 256 } = true := by decide

theorem witness_UnmappedAccessGetsBusError :
    State.reset.rstN = true ∧ UnmappedOffset Config.default 0x001#13 ∧ UnmappedOffset Config.default 0x1FFE#13 ∧
    UnmappedOffset Config.default 0x02C#13 ∧ UnmappedOffset Config.default 0x03C#13 ∧
    UnmappedOffset Config.default 0x060#13 ∧ UnmappedOffset Config.default 0xFFC#13 ∧
    UnmappedOffset { bufSize := 256 } 0x1100#13 ∧ UnmappedOffset { bufSize := 256 } 0x1FFC#13 := by
  and_intros <;> first | rfl | (unfold UnmappedOffset; decide)

theorem witness_IdleReadsReturnRegisters :
    State.reset.rstN = true ∧ State.reset.phase = .idle ∧
    (∃ i : Fin 8, Reg.h 7 = .h i ∧ 0x5be0cd19#32 = State.reset.h.toList.getD i.val 0#32) ∧
    Reg.ctrl = .ctrl ∧ 0#32 = State.reset.ctrlWord :=
  ⟨rfl, rfl, ⟨7, rfl, rfl⟩, rfl, rfl⟩

theorem witness_IdleOperandWriteStores :
    State.reset.rstN = true ∧ State.reset.phase = .idle ∧ ∃ i : Fin 8, Reg.h 7 = .h i :=
  ⟨rfl, rfl, 7, rfl⟩

theorem witness_BufWindowIsBigEndian :
    State.reset.cfg.wf = true ∧ State.reset.rstN = true ∧ State.reset.phase = .idle ∧ 0 < State.reset.cfg.bufSize / 4 ∧
    1023 < State.reset.cfg.bufSize / 4 := by
  decide

theorem witness_ControlWritesAtAnyTime : (busyHost .poll).rstN = true ∧ State.reset.rstN = true := by decide

theorem witness_BusyWritesAreDropped :
    (busyHost .poll).rstN = true ∧ (busyHost .poll).phase = .busy ∧
    DroppedOffset Config.default 0x00C#13 ∧
    DroppedOffset Config.default 0x010#13 ∧
    DroppedOffset Config.default 0x014#13 ∧
    DroppedOffset Config.default 0x018#13 ∧
    DroppedOffset Config.default 0x020#13 ∧
    DroppedOffset Config.default 0x024#13 ∧
    DroppedOffset Config.default 0x040#13 ∧
    DroppedOffset Config.default 0x05C#13 ∧
    DroppedOffset Config.default 0x1000#13 ∧
    DroppedOffset Config.default 0x1FFC#13 := by
  and_intros <;> first | rfl | (unfold DroppedOffset; decide)

/-- No offset is dropped that another rule gives a different outcome: ID, CTRL, STATUS, OUTLEN, BUFSZ, a reserved one. -/
theorem witness_notDropped :
    ¬ DroppedOffset Config.default 0x000#13 ∧
    ¬ DroppedOffset Config.default 0x004#13 ∧
    ¬ DroppedOffset Config.default 0x008#13 ∧
    ¬ DroppedOffset Config.default 0x01C#13 ∧
    ¬ DroppedOffset Config.default 0x028#13 ∧
    ¬ DroppedOffset Config.default 0x03C#13 ∧
    ¬ DroppedOffset Config.default 0x060#13 := by
  and_intros <;> first | rfl | (unfold DroppedOffset; decide)

theorem witness_BusyReads :
    (busyHost .poll).rstN = true ∧ (busyHost .poll).phase = .busy ∧
    UnspecifiedOffset Config.default 0x01C#13 ∧
    UnspecifiedOffset Config.default 0x040#13 ∧
    UnspecifiedOffset Config.default 0x05C#13 ∧
    UnspecifiedOffset Config.default 0x1000#13 ∧
    UnspecifiedOffset Config.default 0x1FFC#13 := by
  and_intros <;> first | rfl | (unfold UnspecifiedOffset; decide)

/-- No register of the second clause falls under the first. -/
theorem witness_BusyReads_apart :
    ¬ UnspecifiedOffset Config.default 0x000#13 ∧
    ¬ UnspecifiedOffset Config.default 0x004#13 ∧
    ¬ UnspecifiedOffset Config.default 0x008#13 ∧
    ¬ UnspecifiedOffset Config.default 0x00C#13 ∧
    ¬ UnspecifiedOffset Config.default 0x010#13 ∧
    ¬ UnspecifiedOffset Config.default 0x014#13 ∧
    ¬ UnspecifiedOffset Config.default 0x018#13 ∧
    ¬ UnspecifiedOffset Config.default 0x020#13 ∧
    ¬ UnspecifiedOffset Config.default 0x024#13 ∧
    ¬ UnspecifiedOffset Config.default 0x028#13 := by
  and_intros <;> first | rfl | (unfold UnspecifiedOffset; decide)

theorem witness_BusyWindowRevealsNothing : (busyHost .poll).phase = .busy := rfl

theorem witness_BusyWindowHostChangesNoCommandState :
    (busyHost .releaseReset).phase = .busy ∧ ¬ HostOp.releaseReset.resets (busyHost .releaseReset) ∧
    ¬ (HostOp.txn (.write 0x00C#13 1#32)).resets (busyHost .releaseReset) := by
  unfold HostOp.resets; decide

theorem witness_CmdWriteIsAccepted : State.reset.rstN = true ∧ State.reset.phase = .idle := ⟨rfl, rfl⟩

theorem witness_FailedCommandChangesOnlyStatus :
    ∃ t, exec .compress (accepted 0x03#32 0#32 0#32 1#32 0) = .next t ∧ t.err ≠ none :=
  ⟨_, exec_eq_complete _ _, by decide⟩

theorem witness_ExecReadsOnlyItsInputs :
    ∃ s s' t t' : State, s' ≠ s ∧ s'.cfg = s.cfg ∧ s'.cmd = s.cmd ∧ s'.h = s.h ∧ s'.buf = s.buf ∧ s'.outlen = s.outlen ∧
      s'.epoch = s.epoch ∧ exec .pad s = .next t ∧ exec .pad s' = .next t' :=
  ⟨accepted 0x01#32 0#32 0#32 3#32 0, { accepted 0x01#32 0#32 0#32 3#32 0 with ovr := true }, _, _,
    fun h => absurd (congrArg State.ovr h) (by decide), rfl, rfl, rfl, rfl, rfl, rfl,
    exec_eq_complete _ _, exec_eq_complete _ _⟩

theorem witness_UnlistedOperandsAreIgnored :
    Operand.src ∉ operandsRead .nop ∧ Operand.prior ∉ operandsRead .compress ∧ Operand.len ∉ operandsRead .expand := by
  decide

theorem witness_EngineNeverWritesOperandRegisters :
    ∃ t, (accepted 0x01#32 0#32 64#32 3#32 0).nextAgent = .engine ∧ step (accepted 0x01#32 0#32 64#32 3#32 0) = .next t :=
  ⟨_, rfl, rfl⟩

theorem witness_OnlyPadWritesOutlen :
    (∃ t, step (accepted 0x01#32 0#32 64#32 3#32 0) = .next t ∧ t.outlen ≠ (accepted 0x01#32 0#32 64#32 3#32 0).outlen) ∧
    (∃ t, step { idleHost .assertReset with outlen := 64#32 } = .next t ∧
      t.outlen ≠ ({ idleHost .assertReset with outlen := 64#32 } : State).outlen) :=
  ⟨⟨_, rfl, by decide +kernel⟩, ⟨_, rfl, by decide⟩⟩

theorem witness_OvrIsStickyAndSetByDroppedWrites :
    (∃ t, step { idleHost (.txn (.write 0x008#13 4#32)) with ovr := true } = .next t ∧ t.ovr = false) ∧
    (∃ t, step { idleHost .assertReset with ovr := true } = .next t ∧ t.ovr = false) ∧
    (∃ t, step (busyHost (.txn (.write 0x1000#13 1#32))) = .next t ∧ (busyHost (.txn (.write 0x1000#13 1#32))).ovr = false ∧
      t.ovr = true) :=
  ⟨⟨_, rfl, by decide⟩, ⟨_, rfl, by decide⟩, ⟨_, rfl, by decide, by decide⟩⟩

theorem witness_OvrIsSticky_set :
    (busyHost (.txn (.write 0x1000#13 1#32))).rstN = true ∧ (busyHost (.txn (.write 0x1000#13 1#32))).phase = .busy ∧
    (busyHost (.txn (.write 0x1000#13 1#32))).hostDoes (.txn (.write 0x1000#13 1#32)) ∧
    DroppedOffset Config.default 0x1000#13 :=
  ⟨rfl, rfl, ⟨rfl, [], rfl⟩, by unfold DroppedOffset; decide⟩

theorem witness_DoneChangesOnlyAsListed :
    (∃ t, step (accepted 0x00#32 0#32 0#32 0#32 0) = .next t ∧ (accepted 0x00#32 0#32 0#32 0#32 0).done = false ∧
      t.done = true) ∧
    (∃ t, step { idleHost (.txn (.write 0x008#13 2#32)) with done := true } = .next t ∧ t.done = false) ∧
    (∃ t, step { idleHost (.txn (.write 0x00C#13 0#32)) with done := true } = .next t ∧ t.done = false) :=
  ⟨⟨_, rfl, by decide, by decide⟩, ⟨_, rfl, by decide⟩, ⟨_, rfl, by decide⟩⟩

theorem witness_PhaseChangesOnlyAsListed :
    (∃ t, step (idleHost (.txn (.write 0x00C#13 0x99#32))) = .next t ∧ t.phase = .busy) ∧
    (∃ t, step (accepted 0x00#32 0#32 0#32 0#32 0) = .next t ∧ t.phase = .idle) ∧
    (∃ t, step (busyHost .assertReset) = .next t ∧ t.phase = .idle ∧ t.done = false) :=
  ⟨⟨_, rfl, by decide⟩, ⟨_, rfl, by decide⟩, ⟨_, rfl, by decide, by decide⟩⟩

theorem witness_IrqFollowsCompletionAndEnable :
    (∃ t, exec .compress { accepted 0x03#32 0#32 0#32 1#32 0 with ie := true } = .next t) ∧
    (∃ t, (accepted 0x09#32 0#32 0#32 0#32 0).nextAgent = .engine ∧ step (accepted 0x09#32 0#32 0#32 0#32 0) = .next t) ∧
    (State.reset.rstN = true ∧ State.reset.phase = .idle) ∧ (0x00000002#32).getLsbD 1 = true ∧
    (0xFFFFFFFE#32).getLsbD 0 = false ∧ UnmappedOffset State.reset.cfg 0x02C#13 ∧ UnmappedOffset State.reset.cfg 0x1FFF#13 :=
  ⟨⟨_, exec_eq_complete _ _⟩, ⟨_, rfl, rfl⟩, ⟨rfl, rfl⟩, rfl, rfl, by unfold UnmappedOffset; decide, by
    unfold UnmappedOffset; decide⟩

theorem witness_NopHasNoDataEffect : (0x00000100#32).extractLsb' 0 8 = 0x00#8 ∧ (0#32).extractLsb' 0 8 = 0x00#8 := by decide

/-- Both ranges at their last place, the empty message at SRC = BUF_SIZE, and each range one byte too far. -/
theorem witness_PadWritesPaddedMessage :
    (let s := accepted 0x01#32 4096#32 4032#32 0#32 0
     s.opSrc + s.opLen ≤ s.cfg.bufSize ∧ s.opDst + padLen s.opLen s.opPrior ≤ s.cfg.bufSize) ∧
    (let s := accepted 0x01#32 4097#32 0#32 0#32 0
     ¬ s.opSrc + s.opLen ≤ s.cfg.bufSize) ∧
    (let s := accepted 0x01#32 0#32 4033#32 0#32 0
     s.opSrc + s.opLen ≤ s.cfg.bufSize ∧ ¬ s.opDst + padLen s.opLen s.opPrior ≤ s.cfg.bufSize) ∧
    State.reset.cfg.wf = true := by
  decide

theorem witness_ExpandWritesSchedule :
    (let s := accepted 0x02#32 4032#32 3840#32 0#32 0
     s.opSrc + 64 ≤ s.cfg.bufSize ∧ s.opDst + 256 ≤ s.cfg.bufSize) ∧
    (let s := accepted 0x02#32 4033#32 0#32 0#32 0
     ¬ (s.opSrc + 64 ≤ s.cfg.bufSize ∧ s.opDst + 256 ≤ s.cfg.bufSize)) ∧
    (let s := accepted 0x02#32 0#32 3841#32 0#32 0
     ¬ (s.opSrc + 64 ≤ s.cfg.bufSize ∧ s.opDst + 256 ≤ s.cfg.bufSize)) := by
  decide

theorem witness_CompressUpdatesChainingState :
    (let s := accepted 0x03#32 0#32 0#32 65#32 0
     s.opLen % 64 ≠ 0) ∧
    (let s := accepted 0x03#32 4033#32 0#32 64#32 0
     s.opLen % 64 = 0 ∧ ¬ s.opSrc + s.opLen ≤ s.cfg.bufSize) ∧
    (let s := accepted 0x03#32 4032#32 0#32 64#32 0
     s.opLen % 64 = 0 ∧ s.opSrc + s.opLen ≤ s.cfg.bufSize) ∧
    (let s := accepted 0x03#32 4096#32 0#32 0#32 0
     s.opLen % 64 = 0 ∧ s.opSrc + s.opLen ≤ s.cfg.bufSize ∧ s.opLen = 0) := by
  decide

/-- The bytes on either side of each accepted range are no digits (R170). -/
theorem witness_hexVal_refuses :
    [0x00#8, 0x2F#8, 0x3A#8, 0x40#8, 0x47#8, 0x60#8, 0x67#8, 0xFF#8].map hexVal = List.replicate 8 none := by
  decide

theorem witness_ImportHexParsesDigest :
    (accepted 0x05#32 0#32 0#32 63#32 0).opLen ≠ 64 ∧
    (let s := accepted 0x05#32 4033#32 0#32 64#32 0
     s.opLen = 64 ∧ ¬ s.opSrc + 64 ≤ s.cfg.bufSize) ∧
    (let s := withBytes 4095 [0x67#8] (accepted 0x05#32 4032#32 0#32 64#32 0)
     s.opLen = 64 ∧ s.opSrc + 64 ≤ s.cfg.bufSize ∧ ∃ j, j < 64 ∧ hexVal (s.byte (s.opSrc + j)) = none) ∧
    (let s := withBytes 4032 (List.replicate 64 0x46#8) (accepted 0x05#32 4032#32 0#32 64#32 0)
     s.opLen = 64 ∧ s.opSrc + 64 ≤ s.cfg.bufSize ∧ ∀ j, j < 64 → hexVal (s.byte (s.opSrc + j)) = some 15) :=
  ⟨by decide, by decide, ⟨by decide, by decide, 63, by decide, by decide +kernel⟩, ⟨by decide, by decide, by decide +kernel⟩⟩

theorem witness_ImportBytesReadsState :
    (let s := accepted 0x06#32 4064#32 0#32 0#32 0
     s.opSrc + 32 ≤ s.cfg.bufSize) ∧
    (let s := accepted 0x06#32 4065#32 0#32 0#32 0
     ¬ s.opSrc + 32 ≤ s.cfg.bufSize) := by
  decide

theorem witness_ExportHexWritesDigest :
    (let s := accepted 0x07#32 0#32 4032#32 0#32 0
     s.opDst + 64 ≤ s.cfg.bufSize) ∧
    (let s := accepted 0x07#32 0#32 4033#32 0#32 0
     ¬ s.opDst + 64 ≤ s.cfg.bufSize) := by
  decide

theorem witness_ExportBytesWritesState :
    (let s := accepted 0x08#32 0#32 4064#32 0#32 0
     s.opDst + 32 ≤ s.cfg.bufSize) ∧
    (let s := accepted 0x08#32 0#32 4065#32 0#32 0
     ¬ s.opDst + 32 ≤ s.cfg.bufSize) := by
  decide

theorem witness_PadUsesFewestZeros : 62 < padZeros 56 0 ∧ padZeros 55 0 = 0 := by decide

theorem witness_PadAlignsTheWholeStream : 8 * (2 ^ 61 - 4 + [0x61#8, 0x62#8, 0x63#8].length) < 2 ^ 64 := by decide

theorem witness_PadBoundsAndLayout :
    (53 + [0x61#8, 0x62#8, 0x63#8].length) % 64 = 56 ∧ ([] : List Byte).length + 1 ≤ 55 ∧
    55 + 9 ≤ padLen ([] : List Byte).length 0 := by
  decide

theorem witness_PadSplitsAtAnyPoint : 0 ≤ abcBlock.length ∧ 64 ≤ abcBlock.length := by decide

theorem witness_ScheduleFollowsRecurrence : abcBlock.length = 64 ∧ 15 < 16 ∧ 16 ≤ 63 ∧ 63 < 64 := by decide

/-- A round's two sums, and the chain of register values of one block. -/
theorem witness_RoundAndBlockFollowTheRules (x : HashState) (block : List Byte) :
    ∃ r : Nat → Working,
      r 0 = { a := x.h0, b := x.h1, c := x.h2, d := x.h3, e := x.h4, f := x.h5, g := x.h6, h := x.h7 } ∧
      ∀ t, t < 64 → r (t + 1) = round t (r t) (expandBlock block) :=
  ⟨fun n => rounds (expandBlock block) n (Working.ofHash x), rfl, fun _ _ => rfl⟩

theorem witness_BlocksAreChainedInOrder : abcBlock.length = 64 ∧ ([] : List Byte).length % 64 = 0 := by decide

theorem witness_CompressionChains : abcBlock.length % 64 = 0 ∧ (abcBlock ++ abcBlock).length % 64 = 0 := by decide

theorem witness_SequencedDatapathComputesCompress : (accepted 0x03#32 0#32 0#32 128#32 0).opLen % 64 = 0 := by decide

/-- A digest in BUF that IMPORT_HEX accepts. -/
def digestState : State :=
  withBytes 0 (List.replicate 64 0x41#8) (accepted 0x05#32 0#32 0#32 64#32 0)

theorem witness_HexImportThenExportLowersCase :
    ∃ t u, exec .importHex digestState = .next t ∧ t.err = none ∧
      exec .exportHex { t with cmd := (accepted 0x07#32 0#32 4032#32 0#32 0).cmd } = .next u ∧
      (accepted 0x07#32 0#32 4032#32 0#32 0).cmd.dst.toNat + 64 ≤ digestState.cfg.bufSize :=
  ⟨_, _, exec_eq_complete _ _, by decide +kernel, exec_eq_complete _ _, by decide⟩

theorem witness_ExportThenImportKeepsState :
    (∃ t, exec .exportHex (accepted 0x07#32 0#32 4032#32 0#32 0) = .next t ∧ t.err = none) ∧
    (∃ t, exec .exportBytes (accepted 0x08#32 0#32 4064#32 0#32 0) = .next t ∧ t.err = none) ∧
    (accepted 0x05#32 4032#32 0#32 64#32 0).cmd.src = (accepted 0x07#32 0#32 4032#32 0#32 0).cmd.dst ∧
    (accepted 0x05#32 4032#32 0#32 64#32 0).cmd.len = 64#32 ∧
    (accepted 0x06#32 4064#32 0#32 0#32 0).cmd.src = (accepted 0x08#32 0#32 4064#32 0#32 0).cmd.dst :=
  ⟨⟨_, exec_eq_complete _ _, by decide +kernel⟩, ⟨_, exec_eq_complete _ _, by decide +kernel⟩, rfl, rfl, rfl⟩

theorem witness_BytesImportThenExportWritesSame :
    ∃ t u, exec .importBytes (accepted 0x06#32 4064#32 0#32 0#32 0) = .next t ∧ t.err = none ∧
      exec .exportBytes { t with cmd := (accepted 0x08#32 0#32 0#32 0#32 0).cmd } = .next u ∧
      (accepted 0x08#32 0#32 0#32 0#32 0).cmd.dst.toNat + 32 ≤ (accepted 0x06#32 4064#32 0#32 0#32 0).cfg.bufSize :=
  ⟨_, _, exec_eq_complete _ _, by decide, exec_eq_complete _ _, by decide⟩

/-- A held reset, to release, and a state out of reset. -/
theorem witness_ResetFromAnyState :
    ((busyHost .poll).hostStep .assertReset).rstN = false ∧ (busyHost .poll).rstN = true :=
  ⟨rfl, rfl⟩

theorem witness_TransactionInResetHasNoEffect : (State.reset.hostStep .assertReset).rstN = false := rfl

theorem reset_meets_cfg : State.reset.cfg.wf = true ∧ State.reset.buf.wf = true := by decide

/-- The invariant at a state that is not reset: a BUSY window with a written byte. -/
theorem witness_StepKeepsInvariant :
    (withBytes 0 [0x61#8] (accepted 0x01#32 0#32 64#32 1#32 0)).Inv ∧
    ∃ t, step (withBytes 0 [0x61#8] (accepted 0x01#32 0#32 64#32 1#32 0)) = .next t :=
  ⟨⟨by decide, by decide, by decide, by decide, fun _ => ⟨rfl, rfl, rfl, rfl, rfl, by decide⟩, fun h => by
    exact absurd h (by decide)⟩, ⟨_, rfl⟩⟩

theorem witness_BusyWindowEnds :
    (busyHost (.txn (.write 0x00C#13 1#32))).phase = .busy ∧ (busyHost (.txn (.write 0x00C#13 1#32))).rstN = true ∧
    ∀ op ∈ (busyHost (.txn (.write 0x00C#13 1#32))).inputs, op ≠ .assertReset := by
  decide

/-- ISSUE then POLL, the engine moving after two host turns. -/
def issuing (w : Word) : State :=
  { idleWith 0#32 64#32 3#32 0 with inputs := [wrReg .cmd w, .poll], turns := [.host, .host, .engine] }

theorem witness_IssueThenPollGivesCommandResult :
    ((issuing 0x01#32).rstN = true ∧ (issuing 0x01#32).phase = .idle ∧
      (issuing 0x01#32).inputs = wrReg .cmd 0x01#32 :: .poll :: [] ∧ decodeCmd 0x01#32 = .ok .pad ∧
      ∃ u, exec .pad ((issuing 0x01#32).accept 0x01#32) = .next u) ∧
    ((issuing 0x109#32).inputs = wrReg .cmd 0x109#32 :: .poll :: [] ∧ decodeCmd 0x109#32 = .error .reservedBits) ∧
    ((issuing 0x09#32).inputs = wrReg .cmd 0x09#32 :: .poll :: [] ∧ decodeCmd 0x09#32 = .error .reservedOpcode) :=
  ⟨⟨rfl, rfl, rfl, rfl, _, exec_eq_complete _ _⟩, ⟨rfl, rfl⟩, ⟨rfl, rfl⟩⟩

end Sys2Proof.Tests
end

section
/-!
PROOFS. Rotation and byte order (R11, R12): the equations of `rotr`, `be32` and `beBytes`, and the two obligations about them.
-/

namespace Sys2Proof.Machine

/-! ### Rotation (R11) -/

/-- The low 32 - n bits of a rotation are the high bits of the word, moved down. -/
theorem rotr_getLsbD_of_lt (x : Word) {n i : Nat} (h : i + n < 32) : (rotr x n).getLsbD i = x.getLsbD (i + n) := by
  have hshl : (x <<< (32 - n)).getLsbD i = false := by simp [show i < 32 - n by omega]
  rw [rotr, BitVec.getLsbD_or, hshl, Bool.or_false, BitVec.getLsbD_ushiftRight, Nat.add_comm]

/-- The high n bits of a rotation are the low bits of the word, moved up. -/
theorem rotr_getLsbD_of_ge (x : Word) {n i : Nat} (hn : n < 32) (hi : i < 32) (h : 32 ≤ i + n) :
    (rotr x n).getLsbD i = x.getLsbD (i + n - 32) := by
  have hshr : (x >>> n).getLsbD i = false := by
    rw [BitVec.getLsbD_ushiftRight]; exact BitVec.getLsbD_of_ge x _ (by omega)
  have hshl : (x <<< (32 - n)).getLsbD i = x.getLsbD (i - (32 - n)) := by
    rw [BitVec.getLsbD_shiftLeft, decide_eq_true hi, decide_eq_false (by omega)]; rfl
  rw [rotr, BitVec.getLsbD_or, hshr, hshl, Bool.false_or, show i - (32 - n) = i + n - 32 by omega]

/-! ### Big-endian bytes and words (R12) -/

/-- The four weighted bytes stay below 2^32, so `BE32` loses nothing. -/
theorem be32_toNat (b0 b1 b2 b3 : Byte) :
    (be32 b0 b1 b2 b3).toNat = b0.toNat * 2 ^ 24 + b1.toNat * 2 ^ 16 + b2.toNat * 2 ^ 8 + b3.toNat := by
  rw [be32, BitVec.toNat_ofNat]
  exact Nat.mod_eq_of_lt (by omega)

theorem beBytes_getD (v : Nat) {n i : Nat} (h : i < n) :
    (beBytes n v).getD i 0#8 = BitVec.ofNat 8 (v / 256 ^ (n - 1 - i)) := by
  simp [beBytes, h]

theorem beBytes_four (v : Nat) :
    beBytes 4 v =
      [BitVec.ofNat 8 (v / 2 ^ 24), BitVec.ofNat 8 (v / 2 ^ 16), BitVec.ofNat 8 (v / 2 ^ 8), BitVec.ofNat 8 v] := by
  simp [beBytes, List.range_succ]

/-- A word is the weighted sum of its base-256 digits. -/
theorem be32At_beBytes_four (x : Word) : be32At (beBytes 4 x.toNat) 0 = x := by
  apply BitVec.eq_of_toNat_eq
  rw [beBytes_four]
  simp only [be32At, List.getD_cons_zero, List.getD_cons_succ, be32_toNat, BitVec.toNat_ofNat]
  omega

/-- Each byte is the base-256 digit of its weight. -/
theorem beBytes_four_be32 (b0 b1 b2 b3 : Byte) : beBytes 4 (be32 b0 b1 b2 b3).toNat = [b0, b1, b2, b3] := by
  rw [beBytes_four, be32_toNat]
  simp only [List.cons.injEq, and_true]
  refine ⟨?_, ?_, ?_, ?_⟩ <;> (apply BitVec.eq_of_toNat_eq; rw [BitVec.toNat_ofNat]; omega)

/-- Settles O1: bit i comes from the right shift while i + n < 32, and from the left shift once i + n wraps round. -/
theorem rotrMovesEachBit : Obligations.RotrMovesEachBit := by
  intro x n i _ hn hi
  by_cases h : i + n < 32
  · rw [Nat.mod_eq_of_lt h, rotr_getLsbD_of_lt x h]
  · rw [Nat.mod_eq_sub_mod (by omega), Nat.mod_eq_of_lt (by omega), rotr_getLsbD_of_ge x hn hi (by omega)]

/-- Settles O2: the weights of `be32` and of `beBytes`, and the two laws that make them inverse. -/
theorem bigEndianBytesAndWordAgree : Obligations.BigEndianBytesAndWordAgree := by
  refine ⟨be32_toNat, beBytes_length, fun n v i hi => ?_, be32At_beBytes_four, beBytes_four_be32⟩
  rw [beBytes_getD v hi, BitVec.toNat_ofNat]

end Sys2Proof.Machine
end

section
/-!
PROOFS. The register map and the host's accesses (R24 to R41, R67): which offset selects what, what a transaction at a
register, at a BUF word and at an unmapped offset does, and the obligations about them.
-/

namespace Sys2Proof.Machine

/-! ### Which offset selects what (R24, R36) -/

/-- H0 to H7 fill the offsets 0x040 to 0x05C. -/
theorem exists_hOffset {a : Offset} (hlo : 0x040 ≤ a.toNat) (hhi : a.toNat ≤ 0x05C) (h4 : a.toNat % 4 = 0) :
    ∃ i : Fin 8, a = (Reg.h i).offset := by
  refine ⟨⟨(a.toNat - 0x040) / 4, by omega⟩, BitVec.eq_of_toNat_eq ?_⟩
  simp only [Reg.offset, BitVec.toNat_ofNat]
  omega

/-- No register lies above H7. -/
theorem Reg.offset_le (r : Reg) : r.offset.toNat ≤ 0x05C := by
  cases r with
  | h i => fin_cases i <;> decide
  | _ => decide

/-- Below 0x1000 nothing is selected exactly at a misaligned offset and in the two gaps of the register map. -/
theorem regAt_eq_none_iff {n : Nat} (hn : n < 0x1000) :
    regAt n = none ↔ n % 4 ≠ 0 ∨ (0x02C ≤ n ∧ n ≤ 0x03C) ∨ (0x060 ≤ n ∧ n ≤ 0x0FFC) := by
  by_cases h : n < 0x060
  · have hmap : ∀ m < 0x060, regAt m = none ↔ m % 4 ≠ 0 ∨ (0x02C ≤ m ∧ m ≤ 0x03C) := by decide
    rw [hmap n h]
    omega
  · have hnone : regAt n = none := by
      cases hr : regAt n with
      | none => rfl
      | some r => have := offset_of_regAt hr; have := r.offset_le; omega
    exact iff_of_true hnone (by omega)

theorem decodeOffset_reg_eq_none_iff {c : Config} {a : Offset} (h : a.toNat < 0x1000) :
    decodeOffset c a = none ↔ regAt a.toNat = none := by
  rw [decodeOffset, if_pos h, Option.map_eq_none_iff]

theorem decodeOffset_buf_eq_none_iff {c : Config} {a : Offset} (h : 0x1000 ≤ a.toNat) :
    decodeOffset c a = none ↔ ¬ (a.toNat % 4 = 0 ∧ a.toNat + 4 ≤ 0x1000 + c.bufSize) := by
  rw [decodeOffset, if_neg (by omega)]
  split_ifs with hw <;> simp [hw]

/-- A reserved or misaligned offset selects nothing, whatever BUF_SIZE is. -/
theorem decodeOffset_of_unmapped {c : Config} {a : Offset} (h : UnmappedOffset c a) : decodeOffset c a = none := by
  unfold UnmappedOffset at h
  by_cases hn : a.toNat < 0x1000
  · rw [decodeOffset_reg_eq_none_iff hn, regAt_eq_none_iff hn]; omega
  · rw [decodeOffset_buf_eq_none_iff (by omega)]; omega

/-- With BUF_SIZE a multiple of 4, every offset that selects nothing is reserved or misaligned. -/
theorem unmapped_of_decodeOffset {c : Config} {a : Offset} (hc : c.bufSize % 4 = 0) (h : decodeOffset c a = none) :
    UnmappedOffset c a := by
  unfold UnmappedOffset
  by_cases hn : a.toNat < 0x1000
  · rw [decodeOffset_reg_eq_none_iff hn, regAt_eq_none_iff hn] at h; omega
  · rw [decodeOffset_buf_eq_none_iff (by omega)] at h; omega

/-- A legal BUF_SIZE is a multiple of 64 (R8). -/
theorem Config.bufSize_mod_of_wf {c : Config} (h : c.wf = true) : c.bufSize % 64 = 0 := by
  simp only [Config.wf, Bool.and_eq_true, beq_iff_eq] at h
  exact h.1.1

theorem decodeOffset_eq_reg_iff {c : Config} {a : Offset} {r : Reg} :
    decodeOffset c a = some (.reg r) ↔ a = r.offset := by
  constructor
  · intro h
    obtain ⟨q, hq, rfl⟩ | ⟨n, hn, -⟩ := decodeOffset_cases h
    · cases hq; rfl
    · cases hn
  · rintro rfl; exact decodeOffset_offset c r

theorem decodeOffset_eq_bufWord_iff {c : Config} {a : Offset} {n : Nat} :
    decodeOffset c a = some (.bufWord n) ↔ a.toNat = 0x1000 + n ∧ n % 4 = 0 ∧ n + 4 ≤ c.bufSize := by
  constructor
  · intro h
    obtain ⟨r, hr, -⟩ | ⟨m, hm, hrest⟩ := decodeOffset_cases h
    · cases hr
    · cases hm; exact hrest
  · rintro ⟨ha, h4, hn⟩; exact decodeOffset_bufWord ha h4 hn

/-- The offsets in the BUF window select a BUF word. -/
theorem exists_bufWord {c : Config} {a : Offset}
    (h : 0x1000 ≤ a.toNat ∧ a.toNat % 4 = 0 ∧ a.toNat + 4 ≤ 0x1000 + c.bufSize) :
    ∃ n, decodeOffset c a = some (.bufWord n) :=
  ⟨a.toNat - 0x1000, decodeOffset_eq_bufWord_iff.2 (by omega)⟩

/-- What R40 drops while BUSY is selected by the offsets it names. -/
theorem target_of_droppedOffset {c : Config} {a : Offset} (h : DroppedOffset c a) :
    ∃ t, decodeOffset c a = some t ∧ t.dropsWhileBusy = true := by
  obtain rfl | rfl | rfl | rfl | rfl | rfl | ⟨hlo, hhi, h4⟩ | hw := h
  · exact ⟨.reg .cmd, rfl, rfl⟩
  · exact ⟨.reg .src, rfl, rfl⟩
  · exact ⟨.reg .dst, rfl, rfl⟩
  · exact ⟨.reg .len, rfl, rfl⟩
  · exact ⟨.reg .priorLo, rfl, rfl⟩
  · exact ⟨.reg .priorHi, rfl, rfl⟩
  · obtain ⟨i, rfl⟩ := exists_hOffset hlo hhi h4
    exact ⟨.reg (.h i), decodeOffset_offset c _, rfl⟩
  · obtain ⟨n, hn⟩ := exists_bufWord hw
    exact ⟨.bufWord n, hn, rfl⟩

/-- What R41 leaves unspecified while BUSY is selected by the offsets it names. -/
theorem target_of_unspecifiedOffset {c : Config} {a : Offset} (h : UnspecifiedOffset c a) :
    ∃ t, decodeOffset c a = some t ∧ t.unspecifiedWhileBusy = true := by
  obtain rfl | ⟨hlo, hhi, h4⟩ | hw := h
  · exact ⟨.reg .outlen, rfl, rfl⟩
  · obtain ⟨i, rfl⟩ := exists_hOffset hlo hhi h4
    exact ⟨.reg (.h i), decodeOffset_offset c _, rfl⟩
  · obtain ⟨n, hn⟩ := exists_bufWord hw
    exact ⟨.bufWord n, hn, rfl⟩

/-! ### Transactions out of reset, by what the offset selects (R37 to R41, R67) -/

theorem State.transact_read_unmapped {s : State} (hr : s.rstN = true) {a : Offset} (h : UnmappedOffset s.cfg a) :
    s.transact (.read a) = s.respond (some 0#32) .err := by
  rw [State.transact_read hr]
  simp only [State.busRead, decodeOffset_of_unmapped h]

theorem State.transact_write_unmapped {s : State} (hr : s.rstN = true) {a : Offset} (h : UnmappedOffset s.cfg a)
    (v : Word) : s.transact (.write a v) = s.respond none .err := by
  rw [State.transact_write hr]
  simp only [State.busWrite, decodeOffset_of_unmapped h]

theorem State.transact_read_reg {s : State} (hr : s.rstN = true) {r : Reg}
    (h : s.phase = .idle ∨ (Target.reg r).unspecifiedWhileBusy = false) :
    s.transact (.read r.offset) = s.respond (some (s.readReg r)) .ok := by
  rw [State.transact_read hr, State.busRead_value (decodeOffset_offset _ r)]
  · rfl
  · rwa [Bool.and_eq_false_iff, State.busy_eq_false]

theorem State.transact_read_unspecified {s : State} (hr : s.rstN = true) (hb : s.phase = .busy) {a : Offset}
    (h : UnspecifiedOffset s.cfg a) : s.transact (.read a) = s.respondUnspecified := by
  obtain ⟨t, hd, ht⟩ := target_of_unspecifiedOffset h
  rw [State.transact_read hr, State.busRead_unspecified hd]
  rw [(State.busy_eq_true s).2 hb, ht]; rfl

theorem State.transact_write_reg {s : State} (hr : s.rstN = true) {r : Reg}
    (h : s.phase = .idle ∨ (Target.reg r).dropsWhileBusy = false) (v : Word) :
    s.transact (.write r.offset v) = (s.writeTarget (.reg r) v).respond none .ok := by
  rw [State.transact_write hr, State.busWrite_performed (decodeOffset_offset _ r)]
  rwa [Bool.and_eq_false_iff, State.busy_eq_false]

theorem State.transact_write_dropped {s : State} (hr : s.rstN = true) (hb : s.phase = .busy) {a : Offset}
    (h : DroppedOffset s.cfg a) (v : Word) :
    s.transact (.write a v) = ({ s with ovr := true } : State).respond none .ok := by
  obtain ⟨t, hd, ht⟩ := target_of_droppedOffset h
  rw [State.transact_write hr, State.busWrite_dropped hd]
  rw [(State.busy_eq_true s).2 hb, ht]; rfl

/-! ### Words of H, and the operand registers as stored (R35, R39) -/

theorem HashState.get_eq_toList_getD (x : HashState) (i : Fin 8) : x.get i = x.toList.getD i.val 0#32 := by
  fin_cases i <;> rfl

theorem HashState.get_set_same (x : HashState) (i : Fin 8) (v : Word) : (x.set i v).get i = v := by
  fin_cases i <;> rfl

theorem HashState.get_set_ne (x : HashState) {i j : Fin 8} (h : j ≠ i) (v : Word) : (x.set i v).get j = x.get j := by
  revert h
  fin_cases i <;> fin_cases j <;> first | exact fun _ => rfl | exact fun h => absurd rfl h

/-- The registers R39 lets an idle host write in full. -/
def Reg.isOperand (r : Reg) : Prop :=
  r = .src ∨ r = .dst ∨ r = .len ∨ r = .priorLo ∨ r = .priorHi ∨ ∃ i : Fin 8, r = .h i

@[simp] theorem State.readReg_respond (s : State) (d : Option Word) (p : Resp) (r : Reg) :
    (s.respond d p).readReg r = s.readReg r := by
  cases r <;> rfl

theorem State.readReg_writeTarget_same {r : Reg} (h : r.isOperand) (s : State) (v : Word) :
    (s.writeTarget (.reg r) v).readReg r = v := by
  obtain rfl | rfl | rfl | rfl | rfl | ⟨i, rfl⟩ := h
  iterate 5 rfl
  exact s.h.get_set_same i v

/-- A stored operand shows at no other register. -/
theorem State.readReg_writeTarget_ne {r q : Reg} (h : r.isOperand) (hq : q ≠ r) (s : State) (v : Word) :
    (s.writeTarget (.reg r) v).readReg q = s.readReg q := by
  obtain rfl | rfl | rfl | rfl | rfl | ⟨i, rfl⟩ := h
  iterate 5 (cases q <;> first | rfl | exact absurd rfl hq)
  cases q with
  | h j => exact s.h.get_set_ne (fun hj => hq (congrArg Reg.h hj)) v
  | _ => rfl

/-- A stored operand leaves the reset line, the phase, the captured command and BUF. -/
theorem State.writeTarget_operand_frame {r : Reg} (h : r.isOperand) (s : State) (v : Word) :
    (s.writeTarget (.reg r) v).rstN = s.rstN ∧ (s.writeTarget (.reg r) v).phase = s.phase ∧
      (s.writeTarget (.reg r) v).cmd = s.cmd ∧ SameBytes s (s.writeTarget (.reg r) v) := by
  obtain rfl | rfl | rfl | rfl | rfl | ⟨i, rfl⟩ := h <;> exact ⟨rfl, rfl, rfl, fun _ => rfl⟩

/-! ### The bits of CTRL and STATUS (R26, R27) -/

theorem State.ctrlWord_getLsbD (s : State) (j : Nat) : s.ctrlWord.getLsbD j = (j == 0 && s.ie) := by
  rw [State.ctrlWord, BitVec.getLsbD_append, BitVec.getLsbD_zero, BitVec.getLsbD_ofBool]
  cases j <;> rfl

/-- STATUS bit by bit: BUSY, DONE, OVR, a zero, the four bits of ERR, and zeros. -/
theorem State.statusWord_getLsbD (s : State) (j : Nat) :
    s.statusWord.getLsbD j =
      match j with
      | 0 => s.busy
      | 1 => s.done
      | 2 => s.ovr
      | 3 => false
      | n + 4 => (errField s.err).getLsbD n := by
  simp only [State.statusWord, BitVec.getLsbD_append, BitVec.getLsbD_ofBool, BitVec.getLsbD_zero]
  match j with
  | 0 | 1 | 2 | 3 => simp
  | n + 4 => simpa using BitVec.lt_of_getLsbD

/-- STATUS.ERR is bits 7:4. -/
theorem State.statusWord_errField (s : State) : s.statusWord.extractLsb' 4 4 = errField s.err := by
  apply BitVec.eq_of_getLsbD_eq
  intro i hi
  rw [BitVec.getLsbD_extractLsb', decide_eq_true hi, Bool.true_and, Nat.add_comm, State.statusWord_getLsbD]

/-! ### The obligations -/

/-- Settles O11: the map read both ways, from a register or a BUF word to its offset and back. -/
theorem offsetsSelectTheRegisterMap : Obligations.OffsetsSelectTheRegisterMap := by
  refine ⟨by decide, fun c a r => decodeOffset_eq_reg_iff, fun c a n => decodeOffset_eq_bufWord_iff, fun c a hc => ?_⟩
  have h64 := Config.bufSize_mod_of_wf hc
  exact ⟨unmapped_of_decodeOffset (by omega), decodeOffset_of_unmapped⟩

/-- Settles O12: an unmapped offset selects nothing, and the bus answers ERR. -/
theorem unmappedAccessGetsBusError : Obligations.UnmappedAccessGetsBusError :=
  fun _ _ v hr ha => ⟨State.transact_read_unmapped hr ha, State.transact_write_unmapped hr ha v⟩

/-- Settles O13: each listed value is what `readReg` gives, which an idle read returns. -/
theorem idleReadsReturnRegisters : Obligations.IdleReadsReturnRegisters := by
  refine ⟨HashState.get_eq_toList_getD, fun s hr hi r v hv => ?_⟩
  have hval : v = s.readReg r := by
    obtain ⟨rfl, rfl⟩ | ⟨rfl, rfl⟩ | ⟨rfl, rfl⟩ | ⟨rfl, rfl⟩ | ⟨rfl, rfl⟩ | ⟨rfl, rfl⟩ | ⟨rfl, rfl⟩ | ⟨rfl, rfl⟩ |
      ⟨rfl, rfl⟩ | ⟨rfl, rfl⟩ | ⟨rfl, rfl⟩ | ⟨i, rfl, rfl⟩ := hv
    iterate 11 rfl
    exact (s.h.get_eq_toList_getD i).symm
  rw [State.transact_read_reg hr (.inl hi), ← hval]
  rfl

/-- Settles O14: CTRL and STATUS are concatenations of their fields. -/
theorem controlAndStatusBits : Obligations.ControlAndStatusBits := by
  intro s
  refine ⟨s.ctrlWord_getLsbD, s.statusWord_getLsbD 0, s.statusWord_getLsbD 1, s.statusWord_getLsbD 2,
    s.statusWord_getLsbD 3, ?_, fun j hj => ?_⟩
  · rw [s.statusWord_errField]
    cases s.err with
    | none => rfl
    | some e => cases e <;> rfl
  · obtain ⟨n, rfl⟩ := Nat.exists_eq_add_of_le' (show 4 ≤ j by omega)
    rw [s.statusWord_getLsbD]
    exact BitVec.getLsbD_of_ge _ n (by omega)

/-- Settles O15: the write stores into the one register, so the next read returns it and the frame is the rest. -/
theorem idleOperandWriteStores : Obligations.IdleOperandWriteStores := by
  intro s r v hr hi hop
  obtain ⟨hrst, hphase, hcmd, hbytes⟩ := s.writeTarget_operand_frame hop v
  have hsame := State.readReg_writeTarget_same hop s v
  rw [State.transact_write_reg hr (.inl hi)]
  refine ⟨?_, ?_, fun q hq => ?_, hbytes, hphase.trans hi, hcmd, rfl⟩
  · have hread := State.transact_read_reg (s := (s.writeTarget (.reg r) v).respond none .ok) (r := r)
      (hrst.trans hr) (.inl (hphase.trans hi))
    rw [hread, State.readReg_respond, hsame]; rfl
  · rw [State.readReg_respond, hsame]
  · rw [State.readReg_respond, State.readReg_writeTarget_ne hop hq]

/-- Settles O17: these five registers are never dropped, so each write is performed in either phase. -/
theorem controlWritesAtAnyTime : Obligations.ControlWritesAtAnyTime := by
  intro s v hr
  refine ⟨fun r h => ?_, State.transact_write_reg (r := .ctrl) hr (.inr rfl) v,
    State.transact_write_reg (r := .status) hr (.inr rfl) v⟩
  obtain rfl | rfl | rfl := h
  all_goals exact State.transact_write_reg hr (.inr rfl) v

/-- Settles O18: the offsets of R40 select what is dropped, and the other registers are written as at any time. -/
theorem busyWritesAreDropped : Obligations.BusyWritesAreDropped := by
  intro s v hr hb
  obtain ⟨hignored, hctrl, hstatus⟩ := controlWritesAtAnyTime s v hr
  refine ⟨fun a ha => State.transact_write_dropped hr hb ha v, hctrl, hstatus, fun a ha => ?_⟩
  obtain rfl | rfl | rfl := ha
  · exact hignored .id (.inl rfl)
  · exact hignored .outlen (.inr (.inl rfl))
  · exact hignored .bufsz (.inr (.inr rfl))

/-- Settles O19: R41's offsets draw a free word, and each other register's read is of its value. -/
theorem busyReads : Obligations.BusyReads := by
  intro s a hr hb
  refine ⟨fun ha => State.transact_read_unspecified hr hb ha, ?_⟩
  rintro r v rfl hv
  obtain ⟨rfl, rfl⟩ | ⟨rfl, rfl⟩ | ⟨rfl, rfl⟩ | ⟨rfl, rfl⟩ | ⟨rfl, rfl⟩ | ⟨rfl, rfl⟩ | ⟨rfl, rfl⟩ | ⟨rfl, rfl⟩ |
    ⟨rfl, rfl⟩ | ⟨rfl, rfl⟩ := hv
  all_goals exact State.transact_read_reg hr (.inr rfl)

end Sys2Proof.Machine
end

section
/-!
PROOFS. What one step can change (R23, R27, R29 to R33, R42, R110, R113, R231): the host's action and the engine's Complete,
field by field, and the obligations that list what changes OUTLEN, DONE and the phase.
-/

namespace Sys2Proof.Machine

/-! ### One host action, by its effect -/

/-- `hostStep_cases` with the performed write resolved: what each register's write does, and that a write to CMD, to an
operand register, to H or to BUF is performed only while IDLE. -/
theorem State.hostStep_effects (s : State) (op : HostOp) :
    (op.resets s ∧ ∃ b, s.hostStep op = { s.applyReset with rstN := b }) ∨
    (∃ bus inputs draws, s.hostStep op = { s with bus := bus, inputs := inputs, draws := draws }) ∨
    (s.hostStep op = ({ s with ovr := true } : State).respond none .ok) ∨
    (∃ v, s.hostStep op = (s.writeCtrl v).respond none .ok) ∨
    (∃ v, op = .txn (.write 0x008#13 v) ∧ s.hostStep op = (s.writeStatus v).respond none .ok) ∨
    (∃ w, op = .txn (.write 0x00C#13 w) ∧ s.phase = .idle ∧ s.hostStep op = (s.accept w).respond none .ok) ∨
    (∃ src dst len priorLo priorHi h buf, s.hostStep op = ({ s with
        src := src, dst := dst, len := len, priorLo := priorLo, priorHi := priorHi, h := h, buf := buf } :
          State).respond none .ok) := by
  obtain h | h | ⟨a, v, -, -, -, h⟩ | ⟨a, v, t, rfl, -, hd, hbusy, h⟩ := s.hostStep_cases op
  · exact .inl h
  · exact .inr (.inl h)
  · exact .inr (.inr (.inl h))
  obtain ht | ⟨-, ht⟩ | ⟨rfl, ht⟩ | ⟨rfl, ht⟩ | ⟨-, -, src, dst, len, lo, hi, x, buf, ht, -⟩ :=
    s.writeTarget_cases t v
  all_goals rw [ht] at h
  · exact .inr (.inl ⟨_, _, _, h⟩)
  · exact .inr (.inr (.inr (.inl ⟨v, h⟩)))
  · obtain rfl := decodeOffset_eq_reg_iff.1 hd
    exact .inr (.inr (.inr (.inr (.inl ⟨v, rfl, h⟩))))
  · obtain rfl := decodeOffset_eq_reg_iff.1 hd
    have hidle : s.phase = .idle := by
      by_contra hp
      exact absurd (hbusy (Phase.busy_of_not_idle hp)) (by decide)
    exact .inr (.inr (.inr (.inr (.inr (.inl ⟨v, rfl, hidle, h⟩)))))
  · exact .inr (.inr (.inr (.inr (.inr (.inr ⟨_, _, _, _, _, _, _, h⟩)))))

/-- The host changes OUTLEN only by a reset (R32). -/
theorem State.hostStep_outlen (s : State) (op : HostOp) : op.resets s ∨ (s.hostStep op).outlen = s.outlen := by
  obtain ⟨hr, -⟩ | ⟨_, _, _, h⟩ | h | ⟨_, h⟩ | ⟨_, -, h⟩ | ⟨_, -, -, h⟩ | ⟨_, _, _, _, _, _, _, h⟩ :=
    s.hostStep_effects op
  · exact .inl hr
  all_goals (rw [h]; exact .inr rfl)

/-- The host never sets DONE; it clears it by a reset, by a STATUS write with bit 1 set, and by a CMD write that is accepted
(R27). -/
theorem State.hostStep_done (s : State) (op : HostOp) :
    (s.hostStep op).done = s.done ∨
    ((s.hostStep op).done = false ∧
      (op.resets s ∨ (∃ v : Word, op = .txn (.write 0x008#13 v) ∧ v.getLsbD 1 = true) ∨
        (s.phase = .idle ∧ ∃ w : Word, op = .txn (.write 0x00C#13 w)))) := by
  obtain ⟨hr, _, h⟩ | ⟨_, _, _, h⟩ | h | ⟨_, h⟩ | ⟨v, hop, h⟩ | ⟨w, hop, hi, h⟩ | ⟨_, _, _, _, _, _, _, h⟩ :=
    s.hostStep_effects op
  all_goals rw [h]
  · exact .inr ⟨rfl, .inl hr⟩
  · exact .inl rfl
  · exact .inl rfl
  · exact .inl rfl
  · cases hv : v.getLsbD 1 with
    | false => exact .inl (by rw [State.respond_done, State.writeStatus_done, hv, Bool.not_false, Bool.and_true])
    | true =>
      refine .inr ⟨?_, .inr (.inl ⟨v, hop, hv⟩)⟩
      rw [State.respond_done, State.writeStatus_done, hv, Bool.not_true, Bool.and_false]
  · exact .inr ⟨rfl, .inr (.inr ⟨hi, w, hop⟩)⟩
  · exact .inl rfl

/-- What a host action does to the phase: an accepted CMD write makes it BUSY, a reset makes it IDLE with DONE = 0, and
nothing else changes it (R42). -/
theorem State.hostStep_phase (s : State) (op : HostOp) :
    (op.resets s ∧ (s.hostStep op).phase = .idle ∧ (s.hostStep op).done = false) ∨
    ((∃ w : Word, op = .txn (.write 0x00C#13 w)) ∧ (s.hostStep op).phase = .busy) ∨
    (s.hostStep op).phase = s.phase := by
  obtain ⟨hr, _, h⟩ | ⟨_, _, _, h⟩ | h | ⟨_, h⟩ | ⟨_, -, h⟩ | ⟨w, hop, -, h⟩ | ⟨_, _, _, _, _, _, _, h⟩ :=
    s.hostStep_effects op
  all_goals rw [h]
  · exact .inl ⟨hr, rfl, rfl⟩
  iterate 4 exact .inr (.inr rfl)
  · exact .inr (.inl ⟨⟨w, hop⟩, rfl⟩)
  · exact .inr (.inr rfl)

/-! ### One step -/

/-- `step_cases` with the host's move packed: nothing, the host's next action from a state that differs in the schedule
alone, or a Complete. -/
theorem step_next_cases {s t : State} (h : step s = .next t) :
    t = s ∨
    (∃ op rest turns, s.hostDoes op ∧ t = ({ s with inputs := rest, turns := turns } : State).hostStep op) ∨
    (s.nextAgent = .engine ∧ ∃ s' r, s' = ({ s with turns := s.turns.tail } : State) ∧ t = s'.complete r ∧
      ((∃ i, decodeCmd s.cmd.word = .ok i ∧ r = cmdResult i s') ∨
        (∃ e, decodeCmd s.cmd.word = .error e ∧ r = .error .illegalCommand))) := by
  obtain ⟨-, -, -, h⟩ | ⟨op, rest, turns, ha, hin, h⟩ | h := step_cases h
  · exact .inl h
  · exact .inr (.inl ⟨op, rest, turns, ⟨ha, rest, hin⟩, h⟩)
  · exact .inr (.inr h)

/-- The engine's step is Complete of the state with one turn used up. -/
theorem step_engine_complete {s t : State} (ha : s.nextAgent = .engine) (h : step s = .next t) :
    ∃ r, t = ({ s with turns := s.turns.tail } : State).complete r := by
  rw [step_engine ha, State.runCommand_eq] at h
  injection h with h
  exact ⟨_, h.symm⟩

/-! ### The obligations -/

/-- Settles O8: the host's step is its next action, after a turn is spent when BUSY and none when IDLE. -/
theorem stepPerformsOneHostAction : Obligations.StepPerformsOneHostAction := by
  refine ⟨fun s op rest hin => ⟨fun hi => ?_, fun hb hturn => ?_⟩, fun s hi hin => ?_⟩
  · rw [step_host (State.host_of_idle hi), State.spendTurn_of_idle hi, State.hostTurn_cons hin]
  · have ha : s.nextAgent = .host := by
      obtain ⟨turns, hturns⟩ := List.head?_eq_some_iff.1 hturn
      simp [State.nextAgent, (State.busy_eq_true s).2 hb, hin, hturns]
    rw [step_host ha, State.spendTurn_of_busy hb, State.hostTurn_cons (s := { s with turns := s.turns.tail }) hin]
  · rw [step_host (State.host_of_idle hi), State.spendTurn_of_idle hi, State.hostTurn_nil hin]

/-- Settles O26: the engine's step is a Complete, which keeps the host's side of the state. -/
theorem engineNeverWritesOperandRegisters : Obligations.EngineNeverWritesOperandRegisters := by
  intro s t ha h
  obtain ⟨r, rfl⟩ := step_engine_complete ha h
  obtain ⟨-, -, hie, -, hsrc, hdst, hlen, hlo, hhi, -⟩ := State.complete_keepsHostSide _ r
  exact ⟨hsrc, hdst, hlen, hlo, hhi, hie⟩

/-- Settles O27: a host action keeps OUTLEN but for a reset, and so does a Complete but for a PAD that succeeds. -/
theorem onlyPadWritesOutlen : Obligations.OnlyPadWritesOutlen := by
  intro s t h hne
  obtain rfl | ⟨op, rest, turns, hop, rfl⟩ | ⟨ha, s', r, rfl, rfl, hres⟩ := step_next_cases h
  · exact absurd rfl hne
  · obtain hr | hsame := State.hostStep_outlen { s with inputs := rest, turns := turns } op
    · exact .inr ⟨op, hop, hr⟩
    · exact absurd hsame hne
  · obtain ⟨i, hdec, rfl⟩ | ⟨e, -, rfl⟩ := hres
    · cases hr : cmdResult i { s with turns := s.turns.tail } with
      | error e => rw [hr] at hne; exact absurd rfl hne
      | ok d =>
        rw [hr] at hne
        obtain hsame | ⟨rfl, hlen, -⟩ := (cmdResult_ok_cases hr).1
        · exact absurd hsame hne
        · exact .inl ⟨ha, hdec, rfl, hlen⟩
    · exact absurd rfl hne

/-- Settles O29: the host never sets DONE and clears it in three ways, and a Complete leaves it set. -/
theorem doneChangesOnlyAsListed : Obligations.DoneChangesOnlyAsListed := by
  intro s t h
  obtain rfl | ⟨op, rest, turns, hop, rfl⟩ | ⟨ha, s', r, -, rfl, -⟩ := step_next_cases h
  · exact ⟨fun h0 h1 => absurd (h0.symm.trans h1) Bool.false_ne_true,
      fun h1 h0 => absurd (h0.symm.trans h1) Bool.false_ne_true⟩
  · obtain hsame | ⟨hclear, hwhy⟩ := State.hostStep_done { s with inputs := rest, turns := turns } op
    · exact ⟨fun h0 h1 => absurd ((hsame.trans h0).symm.trans h1) Bool.false_ne_true,
        fun h1 h0 => absurd (h0.symm.trans (hsame.trans h1)) Bool.false_ne_true⟩
    · exact ⟨fun _ h1 => absurd (hclear.symm.trans h1) Bool.false_ne_true, fun _ _ => ⟨op, hop, hwhy⟩⟩
  · exact ⟨fun _ _ => ha, fun _ h0 => absurd (h0.symm.trans (s'.complete_done r)) Bool.false_ne_true⟩

/-- Settles O30: `hostStep_phase` for the host's moves, and a Complete ends IDLE with DONE = 1. -/
theorem phaseChangesOnlyAsListed : Obligations.PhaseChangesOnlyAsListed := by
  intro s t h
  obtain rfl | ⟨op, rest, turns, hop, rfl⟩ | ⟨ha, s', r, -, rfl, -⟩ := step_next_cases h
  · exact ⟨fun hi hb => absurd (hi.symm.trans hb) (by decide), fun hb hi => absurd (hi.symm.trans hb) (by decide)⟩
  · obtain ⟨hr, hidle, hdone⟩ | ⟨⟨w, rfl⟩, hbusy⟩ | hsame :=
      State.hostStep_phase { s with inputs := rest, turns := turns } op
    · exact ⟨fun _ hb => absurd (hidle.symm.trans hb) (by decide), fun _ _ => .inr ⟨op, hop, hr, hdone⟩⟩
    · exact ⟨fun _ _ => ⟨w, hop⟩, fun _ hi => absurd (hi.symm.trans hbusy) (by decide)⟩
    · exact ⟨fun hi hb => absurd (hi.symm.trans (hsame.symm.trans hb)) (by decide),
        fun hb hi => absurd (hi.symm.trans (hsame.trans hb)) (by decide)⟩
  · exact ⟨fun _ hb => absurd ((s'.complete_phase r).symm.trans hb) (by decide),
      fun _ _ => .inl ⟨ha, s'.complete_done r⟩⟩

end Sys2Proof.Machine
end

section
/-!
PROOFS. The sequenced datapath (R43 to R45, R152, R153): rounds, one block and all blocks over the working registers, the
schedule and the counters, against the one-step compression.
-/

namespace Sys2Proof.Machine

/-- A loop is Mathlib's iterate. -/
theorem State.repeated_eq_iterate (f : State → State) (n : Nat) (s : State) : State.repeated f n s = f^[n] s := by
  induction n generalizing s with
  | zero => rfl
  | succ n ih => rw [State.repeated_succ, ih, Function.iterate_succ_apply]

/-- The last of n + 1 rounds, after the first n. -/
theorem State.runRounds_succ_last (n : Nat) (s : State) : s.runRounds (n + 1) = (s.runRounds n).roundStep := by
  simp only [State.runRounds, State.repeated_eq_iterate, Function.iterate_succ_apply']

/-- n rounds from t = 0 run rounds 0 to n − 1 over the schedule and leave the counter at n mod 64. -/
theorem State.runRounds_eq {s : State} (ht : s.t = 0) {n : Nat} (hn : n ≤ 64) :
    s.runRounds n = { s with work := rounds s.w.toList n s.work, t := Fin.ofNat 64 n } := by
  induction n with
  | zero => rw [State.runRounds_zero, show Fin.ofNat 64 0 = s.t from ht.symm]; rfl
  | succ n ih =>
    have hround : (Fin.ofNat 64 n).val = n := Nat.mod_eq_of_lt (by omega)
    have hcount : Fin.ofNat 64 n + 1 = Fin.ofNat 64 (n + 1) := by ext; simp [Fin.val_add]
    rw [State.runRounds_succ_last, ih (by omega), State.roundStep_eq]
    simp only [hround, hcount, rounds]

/-- The schedule as a register of 64 words holds exactly the 64 words of the block's schedule. -/
theorem scheduleVector_toList (block : List Byte) :
    (Vector.ofFn fun i : Fin 64 => (expandBlock block).getD i.val 0#32).toList = expandBlock block := by
  have hlen := expandBlock_length block
  generalize expandBlock block = ws at hlen ⊢
  apply List.ext_getElem
  · simp [hlen]
  · intro i _ hi
    simp [List.getD_eq_getElem?_getD, List.getElem?_eq_getElem hi]

/-- The state the sequenced form may leave: H and k as given, the schedule, the working registers and t of any value, and
everything else as it was. -/
def BlocksDone (s t : State) (h : HashState) (k : Nat) : Prop :=
  ∃ (w : Vector Word 64) (work : Working) (r : Fin 64), t = { s with h := h, k := k, w := w, work := work, t := r }

theorem BlocksDone.trans {s u t : State} {h h' : HashState} {k k' : Nat} (hu : BlocksDone s u h k)
    (ht : BlocksDone u t h' k') : BlocksDone s t h' k' := by
  obtain ⟨_, _, _, rfl⟩ := hu
  exact ht

/-- What the next block reads: the H and k reached, and the operands and BUF as they were. -/
theorem BlocksDone.frame {s t : State} {h : HashState} {k : Nat} (hd : BlocksDone s t h k) :
    t.h = h ∧ t.k = k ∧ t.opSrc = s.opSrc ∧ ∀ a n, t.memRead a n = s.memRead a n := by
  obtain ⟨_, _, _, rfl⟩ := hd
  exact ⟨rfl, rfl, rfl, fun _ _ => rfl⟩

/-- One block sequenced is `Compress1` of block k (R152). -/
theorem State.runBlock_done (s : State) :
    BlocksDone s s.runBlock (compress1 s.h (s.memRead (s.opSrc + 64 * s.k) 64)) (s.k + 1) := by
  rw [State.runBlock, State.runRounds_eq (s := s.loadBlock) rfl (le_refl 64), State.foldBlock_eq]
  simp only [State.loadBlock, scheduleVector_toList, compress1]
  exact ⟨_, _, _, rfl⟩

/-- n + 1 blocks of BUF are the first and the n after it. -/
theorem compressBlocks_memRead_succ (n : Nat) (x : HashState) (s : State) (a : Nat) :
    compressBlocks (n + 1) x (s.memRead a (64 * (n + 1))) =
      compressBlocks n (compress1 x (s.memRead a 64)) (s.memRead (a + 64) (64 * n)) := by
  rw [compressBlocks, Nat.mul_succ, Nat.add_comm, State.memRead_append, List.take_left' (by simp),
    List.drop_left' (by simp)]

/-- n blocks sequenced are the chained compression of the n blocks from block k on (R153). -/
theorem State.runBlocks_done (n : Nat) (s : State) :
    BlocksDone s (s.runBlocks n) (compressBlocks n s.h (s.memRead (s.opSrc + 64 * s.k) (64 * n))) (s.k + n) := by
  induction n generalizing s with
  | zero => exact ⟨s.w, s.work, s.t, rfl⟩
  | succ n ih =>
    have hblock := s.runBlock_done
    obtain ⟨hh, hk, hsrc, hmem⟩ := hblock.frame
    have hrest := hblock.trans (ih s.runBlock)
    rw [hh, hk, hsrc, hmem, Nat.mul_succ, ← Nat.add_assoc] at hrest
    rwa [State.runBlocks_succ, compressBlocks_memRead_succ, Nat.add_comm n, ← Nat.add_assoc]

/-- Settles O50: all LEN / 64 blocks from k = 0. -/
theorem sequencedDatapathComputesCompress : Obligations.SequencedDatapathComputesCompress := by
  intro s hlen
  have hbytes : 64 * (s.opLen / 64) = s.opLen := Nat.mul_div_cancel' (Nat.dvd_of_mod_eq_zero hlen)
  have hdone := State.runBlocks_done (s.opLen / 64) s.startBlocks
  rw [hbytes, show s.startBlocks.k = 0 from rfl, Nat.zero_add, Nat.mul_zero, Nat.add_zero] at hdone
  rw [compressN, State.memRead_length]
  exact hdone

end Sys2Proof.Machine
end

section
/-!
PROOFS. The state after reset (R50): its values and the invariant.
-/

namespace Sys2Proof.Machine

theorem resetWith_resetValues (c : Config) : ResetValues (State.resetWith c) :=
  ⟨rfl, rfl, rfl, rfl, rfl, rfl, rfl, rfl, rfl, rfl, rfl, rfl, rfl⟩

/-- The state after reset meets the invariant in every legal configuration: no command runs, and BUF has no written byte. -/
theorem resetWith_inv {c : Config} (h : c.wf = true) : (State.resetWith c).Inv :=
  ⟨h, rfl, rfl, Nat.zero_le _, nofun, nofun⟩

/-- Settles O54: `resetWith` gives the values, in the default configuration. -/
theorem resetStateValues : Obligations.ResetStateValues :=
  ⟨resetWith_resetValues _, rfl, rfl, rfl, rfl, rfl, rfl, rfl⟩

/-- Settles O57: the default configuration is legal. -/
theorem resetMeetsInvariant : Obligations.ResetMeetsInvariant :=
  resetWith_inv (c := Config.default) (by decide)

end Sys2Proof.Machine
end

section
/-!
PROOFS. The BUF window (R61) and what a BUSY window lets the host read and change (R69).
-/

namespace Sys2Proof.Machine

/-! ### A BUF word as the host sees it (R61) -/

/-- `BE_4` of a word is its four bytes, from bits 31:24 down. -/
theorem beBytes_four_word (v : Word) :
    beBytes 4 v.toNat = [v.extractLsb' 24 8, v.extractLsb' 16 8, v.extractLsb' 8 8, v.extractLsb' 0 8] := by
  simp only [beBytes_four, BitVec.extractLsb', Nat.shiftRight_eq_div_pow, Nat.pow_zero, Nat.div_one]

/-- Host offset 0x1000 + 4j selects BUF word j (R61): it does not wrap at 13 bits, since BUF_SIZE is at most 4096. -/
theorem decodeOffset_bufWindow {c : Config} (hc : c.wf = true) {j : Nat} (hj : j < c.bufSize / 4) :
    decodeOffset c (BitVec.ofNat 13 (0x1000 + 4 * j)) = some (.bufWord (4 * j)) := by
  have hmax : c.bufSize ≤ 4096 := by
    simp only [Config.wf, Bool.and_eq_true, decide_eq_true_eq] at hc
    exact hc.2
  refine decodeOffset_bufWord ?_ (by omega) (by omega)
  rw [BitVec.toNat_ofNat]
  exact Nat.mod_eq_of_lt (by omega)

/-- Settles O16: idle, the window reads and writes the BUF word it selects, and a write of BUF is read back byte by byte. -/
theorem bufWindowIsBigEndian : Obligations.BufWindowIsBigEndian := by
  intro s j v hc hr hi hj
  have hd := decodeOffset_bufWindow hc hj
  have hidle : ∀ b, (s.busy && b) = false := fun b => by rw [(State.busy_eq_false s).2 hi, Bool.false_and]
  refine ⟨?_, s.buf.setBytes (4 * j) (beBytes 4 v.toNat), ?_, ?_, ?_, fun r => ?_⟩
  · rw [State.transact_read hr, State.busRead_value hd (hidle _)]; rfl
  · rw [State.transact_write hr, State.busWrite_performed hd (hidle _)]; rfl
  · rw [← beBytes_four_word]
    exact State.memRead_of_setBytes (s := s) (bs := beBytes 4 v.toNat) rfl rfl
  · exact sameBytesOutside_of_setBytes (bs := beBytes 4 v.toNat) rfl rfl
  · cases r <;> rfl

/-! ### What the answer to a transaction depends on while BUSY (R41, R69) -/

/-- `s'` is `s` but for what a running command computes on: H, OUTLEN, BUF with its unwritten bytes, and the hidden
registers. -/
def SameButCommandData (s s' : State) : Prop :=
  ∃ (h : HashState) (buf : Memory) (outlen : Word) (cmd : Command) (work : Working) (w : Vector Word 64) (k : Nat)
    (t : Fin 64) (epoch : Nat),
    s' = { s with h := h, buf := buf, outlen := outlen, cmd := cmd, work := work, w := w, k := k, t := t, epoch := epoch }

/-- What decides how the bus answers: the configuration, the reset line, BUSY and the draw counter. -/
theorem SameButCommandData.frame {s s' : State} (h : SameButCommandData s s') :
    s'.cfg = s.cfg ∧ s'.rstN = s.rstN ∧ s'.busy = s.busy ∧ s'.draws = s.draws := by
  obtain ⟨_, _, _, _, _, _, _, _, _, rfl⟩ := h
  exact ⟨rfl, rfl, rfl, rfl⟩

/-- Every register that still reads its value while BUSY shows none of the command's data. -/
theorem SameButCommandData.readTarget {s s' : State} (h : SameButCommandData s s') {t : Target}
    (ht : t.unspecifiedWhileBusy = false) : s'.readTarget t = s.readTarget t := by
  obtain ⟨_, _, _, _, _, _, _, _, _, rfl⟩ := h
  cases t with
  | bufWord a => cases ht
  | reg r =>
    cases r with
    | outlen => cases ht
    | h i => cases ht
    | _ => rfl

/-- A read while BUSY is answered with a bus error, with the next draw, or with a value that shows none of the command's
data. -/
theorem SameButCommandData.busRead_bus {s s' : State} (h : SameButCommandData s s') (hb : s.phase = .busy) (a : Offset) :
    (s'.busRead a).bus = (s.busRead a).bus := by
  obtain ⟨hcfg, -, hbusy, hdraws⟩ := h.frame
  have hd' : decodeOffset s'.cfg a = decodeOffset s.cfg a := by rw [hcfg]
  have hs : s.busy = true := (State.busy_eq_true s).2 hb
  cases hd : decodeOffset s.cfg a with
  | none => simp only [State.busRead, hd', hd, State.respond_bus]
  | some t =>
    cases ht : t.unspecifiedWhileBusy with
    | true =>
      rw [State.busRead_unspecified hd (by rw [hs, ht]; rfl),
        State.busRead_unspecified (hd'.trans hd) (by rw [hbusy, hs, ht]; rfl)]
      simp only [State.respondUnspecified, State.draw, hdraws]
    | false =>
      rw [State.busRead_value hd (by rw [ht, Bool.and_false]),
        State.busRead_value (hd'.trans hd) (by rw [ht, Bool.and_false]), h.readTarget ht]
      rfl

/-- A write is answered by whether its offset selects anything, and by nothing else. -/
theorem State.busWrite_bus (s : State) (a : Offset) (v : Word) :
    (s.busWrite a v).bus =
      some { rdata := none, resp := if (decodeOffset s.cfg a).isSome then .ok else .err } := by
  cases hd : decodeOffset s.cfg a with
  | none => simp only [State.busWrite, hd]; rfl
  | some t =>
    cases hdrop : s.busy && t.dropsWhileBusy with
    | true => rw [State.busWrite_dropped hd hdrop]; rfl
    | false => rw [State.busWrite_performed hd hdrop]; rfl

/-- Every answer while BUSY: to a read, to a write, and the free one while in reset. -/
theorem SameButCommandData.transact_bus {s s' : State} (h : SameButCommandData s s') (hb : s.phase = .busy) (tx : Txn) :
    (s'.transact tx).bus = (s.transact tx).bus := by
  obtain ⟨hcfg, hrst, -, hdraws⟩ := h.frame
  cases hr : s.rstN with
  | false =>
    rw [State.transact_inReset hr, State.transact_inReset (hrst.trans hr)]
    unfold State.respondInReset State.draw
    rw [hdraws]
  | true =>
    cases tx with
    | read a =>
      rw [State.transact_read hr, State.transact_read (hrst.trans hr)]
      exact h.busRead_bus hb a
    | write a v =>
      rw [State.transact_write hr, State.transact_write (hrst.trans hr), State.busWrite_bus, State.busWrite_bus, hcfg]

/-- Settles O20: the two states differ in the command's data alone. -/
theorem busyWindowRevealsNothing : Obligations.BusyWindowRevealsNothing :=
  fun _ tx _ _ _ _ _ _ _ _ _ hb => SameButCommandData.transact_bus ⟨_, _, _, _, _, _, _, _, _, rfl⟩ hb tx

/-! ### What the host can change while BUSY (R40, R69) -/

/-- All a host action but a reset can change while BUSY: the answer, CTRL.IE, STATUS.DONE and STATUS.OVR, the waiting
actions and the draw counter. A write that would change more is one that R40 drops. -/
theorem State.hostStep_of_busy {s : State} {op : HostOp} (hb : s.phase = .busy) (hop : ¬ op.resets s) :
    ∃ ie done ovr bus inputs draws, s.hostStep op =
      { s with ie := ie, done := done, ovr := ovr, bus := bus, inputs := inputs, draws := draws } := by
  obtain ⟨hr, -⟩ | ⟨bus, inputs, draws, h⟩ | ⟨a, v, -, -, -, h⟩ | ⟨a, v, t, -, -, -, hkept, h⟩ := s.hostStep_cases op
  · exact absurd hr hop
  · exact ⟨_, _, _, _, _, _, h⟩
  · exact ⟨_, _, _, _, _, _, h⟩
  · have hnotDropped : t.dropsWhileBusy = false := hkept hb
    obtain ht | ⟨-, ht⟩ | ⟨-, ht⟩ | ⟨rfl, -⟩ | ⟨hdropped, -⟩ := s.writeTarget_cases t v
    iterate 3 (rw [ht] at h; exact ⟨_, _, _, _, _, _, h⟩)
    · cases hnotDropped
    · exact absurd hdropped (by rw [hnotDropped]; decide)

/-- Settles O21: none of what `hostStep_of_busy` lists is the command's. -/
theorem busyWindowHostChangesNoCommandState : Obligations.BusyWindowHostChangesNoCommandState := by
  intro s op hb hop
  obtain ⟨_, _, _, _, _, _, h⟩ := State.hostStep_of_busy hb hop
  rw [h]
  exact ⟨rfl, rfl, rfl, fun _ => rfl, rfl, rfl, rfl, rfl, rfl, rfl, hb⟩

end Sys2Proof.Machine
end

section
/-!
PROOFS. ISSUE then POLL (R74, R96, R110, R113): acceptance, the BUSY window under any schedule, and the POLL that finds
BUSY = 0.
-/

namespace Sys2Proof.Machine

/-! ### What the captured word computes (R113, R204) -/

/-- What Complete of the captured word applies: the command's result, or ILLEGAL_COMMAND (R204). -/
def State.commandResult (s : State) : CmdResult :=
  match decodeCmd s.cmd.word with
  | .ok i => cmdResult i s
  | .error _ => .error .illegalCommand

theorem State.commandResult_ok {s : State} {i : Instr} (h : decodeCmd s.cmd.word = .ok i) :
    s.commandResult = cmdResult i s := by
  simp only [State.commandResult, h]

theorem State.commandResult_illegal {s : State} {e : DecodeError} (h : decodeCmd s.cmd.word = .error e) :
    s.commandResult = .error .illegalCommand := by
  simp only [State.commandResult, h]

/-- No command reads the answer, the waiting actions or the schedule. -/
theorem cmdResult_schedule (i : Instr) (s : State) (bus : Option Response) (inputs : List HostOp) (turns : List Agent) :
    cmdResult i { s with bus := bus, inputs := inputs, turns := turns } = cmdResult i s := by
  cases i <;> rfl

theorem State.commandResult_schedule (s : State) (bus : Option Response) (inputs : List HostOp) (turns : List Agent) :
    ({ s with bus := bus, inputs := inputs, turns := turns } : State).commandResult = s.commandResult := by
  cases h : decodeCmd s.cmd.word with
  | ok i =>
    exact (State.commandResult_ok h).trans ((cmdResult_schedule i s _ _ _).trans (State.commandResult_ok h).symm)
  | error e => exact (State.commandResult_illegal h).trans (State.commandResult_illegal h).symm

/-! ### The steps of ISSUE then POLL -/

/-- The state in which `Write(CMD, w)` was accepted and answered, with `inputs` still to come (R110). -/
def State.issued (s : State) (w : Word) (inputs : List HostOp) : State :=
  { s.accept w with bus := some { rdata := none, resp := .ok }, inputs := inputs }

theorem State.issued_commandResult (s : State) (w : Word) (inputs : List HostOp) :
    (s.issued w inputs).commandResult = (s.accept w).commandResult :=
  State.commandResult_schedule (s.accept w) _ inputs s.turns

theorem step_issue {s : State} {w : Word} {rest : List HostOp} (hr : s.rstN = true) (hi : s.phase = .idle)
    (hin : s.inputs = wrReg .cmd w :: rest) : step s = .next (s.issued w rest) := by
  rw [(stepPerformsOneHostAction.1 s _ rest hin).1 hi]
  exact congrArg _ (State.transact_write_reg (s := { s with inputs := rest }) (r := .cmd) hr (.inl hi) w)

/-- What a POLL that finds BUSY = 0 leaves: it is answered with STATUS and is no longer waiting (R96). -/
def State.polled (s : State) (rest : List HostOp) : State :=
  { s with bus := some { rdata := some s.statusWord, resp := .ok }, inputs := rest }

theorem State.hostStep_poll_idle {s : State} (hr : s.rstN = true) (hi : s.phase = .idle) :
    s.hostStep .poll = s.polled s.inputs := by
  rw [State.hostStep_poll s hr, (State.busy_eq_false s).2 hi]; rfl

theorem State.hostStep_poll_busy {s : State} (hr : s.rstN = true) (hb : s.phase = .busy) :
    s.hostStep .poll = s.polled (.poll :: s.inputs) := by
  rw [State.hostStep_poll s hr, (State.busy_eq_true s).2 hb]; rfl

theorem step_poll_idle {s : State} {rest : List HostOp} (hr : s.rstN = true) (hi : s.phase = .idle)
    (hin : s.inputs = .poll :: rest) : step s = .next (s.polled rest) := by
  rw [(stepPerformsOneHostAction.1 s _ rest hin).1 hi,
    State.hostStep_poll_idle (s := { s with inputs := rest }) hr hi]
  rfl

/-- A POLL in the host's turn of a BUSY window spends the turn and stays next in line (R96). -/
theorem step_poll_busy {s : State} {rest : List HostOp} {turns : List Agent} (hr : s.rstN = true)
    (hb : s.phase = .busy) (hin : s.inputs = .poll :: rest) (hturns : s.turns = .host :: turns) :
    step s = .next { s with bus := some { rdata := some s.statusWord, resp := .ok }, turns := turns } := by
  rw [(stepPerformsOneHostAction.1 s _ rest hin).2 hb (by rw [hturns]; rfl), hturns, List.tail_cons,
    State.hostStep_poll_busy (s := { s with inputs := rest, turns := turns }) hr hb, hin]
  rfl

/-- The engine's turn of a BUSY window is Complete of the captured word. -/
theorem step_complete {s : State} (ha : s.nextAgent = .engine) :
    step s = .next (({ s with turns := s.turns.tail } : State).complete s.commandResult) := by
  rw [step_engine ha, ← s.commandResult_schedule s.bus s.inputs s.turns.tail]
  exact State.runCommand_eq _

/-- In the engine's turn of a BUSY window the captured word completes, and the POLL that follows finds BUSY = 0. -/
theorem run_complete_poll {s : State} {rest : List HostOp} (hr : s.rstN = true) (ha : s.nextAgent = .engine)
    (hin : s.inputs = .poll :: rest) :
    Sys2Proof.core.run 2 s =
      .next ((({ s with turns := s.turns.tail } : State).complete s.commandResult).polled rest) := by
  rw [core_run_succ 1 (step_complete ha), core_run_succ 0 (step_poll_idle ?_ (State.complete_phase _ _) ?_)]
  · rfl
  · rw [State.complete_rstN]; exact hr
  · rw [State.complete_inputs]; exact hin

/-- A BUSY window in which the host polls, under any schedule: the captured word completes with the result it had from the
start, and the POLL after that finds BUSY = 0. -/
theorem run_poll_busy {s : State} {rest : List HostOp} (hr : s.rstN = true) (hb : s.phase = .busy)
    (hin : s.inputs = .poll :: rest) :
    ∃ n bus left, Sys2Proof.core.run n s =
      .next ((({ s with bus := bus, turns := left } : State).complete s.commandResult).polled rest) := by
  have hs : s.busy = true := (State.busy_eq_true s).2 hb
  induction hturns : s.turns generalizing s with
  | nil =>
    have ha : s.nextAgent = .engine := by simp [State.nextAgent, hs, hin, hturns]
    exact ⟨2, s.bus, s.turns.tail, run_complete_poll hr ha hin⟩
  | cons agent turns ih =>
    cases agent with
    | engine =>
      have ha : s.nextAgent = .engine := by simp [State.nextAgent, hs, hin, hturns]
      exact ⟨2, s.bus, s.turns.tail, run_complete_poll hr ha hin⟩
    | host =>
      obtain ⟨n, bus, left, h⟩ :=
        ih (s := { s with bus := some { rdata := some s.statusWord, resp := .ok }, turns := turns }) hr hb hin hs rfl
      rw [← core_run_succ n (step_poll_busy hr hb hin hturns), State.commandResult_schedule s _ s.inputs] at h
      exact ⟨n + 1, bus, left, h⟩

/-! ### The end of ISSUE then POLL -/

/-- Complete of an issued word, whatever its result, then POLL's read: the end that R74 and R96 give. -/
theorem polledIdle_complete (s : State) (w : Word) (r : CmdResult) (bus : Option Response) (inputs rest : List HostOp)
    (turns : List Agent) :
    PolledIdle s ((({ s.issued w inputs with bus := bus, turns := turns } : State).complete r).polled rest) rest := by
  cases r <;> exact ⟨rfl, rfl, rfl, rfl, rfl, rfl, rfl, rfl, rfl, rfl, rfl⟩

/-- ISSUE then POLL ends with what the accepted word's Complete gives at acceptance, under every schedule. -/
theorem issue_poll_completes {s : State} {w : Word} {rest : List HostOp} (hr : s.rstN = true) (hi : s.phase = .idle)
    (hin : s.inputs = wrReg .cmd w :: .poll :: rest) {u : State}
    (hu : u = (s.accept w).complete (s.accept w).commandResult) :
    ∃ n t, Sys2Proof.core.run n s = .next t ∧ PolledIdle s t rest ∧ t.err = u.err ∧ t.h = u.h ∧ t.buf = u.buf ∧
      t.outlen = u.outlen := by
  obtain ⟨n, bus, left, h⟩ := run_poll_busy (s := s.issued w (.poll :: rest)) hr rfl rfl
  rw [← core_run_succ n (step_issue hr hi hin), State.issued_commandResult] at h
  refine ⟨n + 1, _, h, polledIdle_complete s w _ bus _ rest left, ?_⟩
  rw [hu]
  cases (s.accept w).commandResult <;> exact ⟨rfl, rfl, rfl, rfl⟩

/-- Settles O60: a command's result is what `exec` applies, and an ILLEGAL word's is ILLEGAL_COMMAND. -/
theorem issueThenPollGivesCommandResult : Obligations.IssueThenPollGivesCommandResult := by
  intro s w rest hr hi hin
  refine ⟨fun i u hdec hexec => ?_, fun e hdec => ?_⟩
  · have hres : (s.accept w).commandResult = cmdResult i (s.accept w) := State.commandResult_ok hdec
    exact issue_poll_completes hr hi hin (by rw [hres]; exact exec_next_iff.1 hexec)
  · have hres : (s.accept w).commandResult = .error .illegalCommand := State.commandResult_illegal hdec
    exact issue_poll_completes hr hi hin (u := (s.accept w).failCommand .illegalCommand) (by rw [hres]; rfl)

end Sys2Proof.Machine
end

section
/-!
PROOFS. Encoding (R90 to R94, R204): the opcode map and the decoder as equivalences, the end of an ILLEGAL word, and the
operands each command reads.
-/

namespace Sys2Proof.Machine

/-! ### The opcode map (R92, R93) -/

theorem opcodeMap_opcode (i : Instr) : opcodeMap i.opcode = some i := by
  cases i <;> rfl

theorem opcodeMap_eq_some_iff {op : BitVec 8} {i : Instr} : opcodeMap op = some i ↔ op = i.opcode := by
  constructor
  · intro h
    unfold opcodeMap at h
    split at h
    case h_10 => cases h
    all_goals
      next hop =>
        cases h
        exact BitVec.eq_of_toNat_eq hop
  · rintro rfl; exact opcodeMap_opcode i

theorem opcode_le (i : Instr) : i.opcode.toNat ≤ 0x08 := by
  cases i <;> decide

/-- The commands fill the values of OP up to 0x08. -/
theorem opcodeMap_isSome {op : BitVec 8} (h : op.toNat ≤ 0x08) : (opcodeMap op).isSome = true := by
  have hmap : ∀ n ≤ 0x08, (opcodeMap (BitVec.ofNat 8 n)).isSome = true := by decide
  simpa using hmap op.toNat h

/-- The reserved values of OP are 0x09 and above. -/
theorem opcodeMap_eq_none_iff {op : BitVec 8} : opcodeMap op = none ↔ 0x09 ≤ op.toNat := by
  constructor
  · intro h
    by_contra hlt
    have hsome := opcodeMap_isSome (show op.toNat ≤ 0x08 by omega)
    rw [h] at hsome
    cases hsome
  · intro h
    cases hop : opcodeMap op with
    | none => rfl
    | some i =>
      have hle := opcode_le i
      rw [← opcodeMap_eq_some_iff.1 hop] at hle
      omega

/-! ### The decoder and the encoder (R90, R94) -/

theorem decodeCmd_of_rsvd_ne {w : Word} (h : w.extractLsb' 8 24 ≠ 0#24) : decodeCmd w = .error .reservedBits := by
  rw [decodeCmd, if_neg h]

theorem decodeCmd_of_opcode {w : Word} (h : w.extractLsb' 8 24 = 0#24) {i : Instr}
    (hop : opcodeMap (w.extractLsb' 0 8) = some i) : decodeCmd w = .ok i := by
  rw [decodeCmd, if_pos h, hop]

theorem decodeCmd_of_reserved {w : Word} (h : w.extractLsb' 8 24 = 0#24)
    (hop : opcodeMap (w.extractLsb' 0 8) = none) : decodeCmd w = .error .reservedOpcode := by
  rw [decodeCmd, if_pos h, hop]

/-- A word decodes to a command exactly when RSVD is zero and OP is the command's. -/
theorem decodeCmd_eq_ok_iff {w : Word} {i : Instr} :
    decodeCmd w = .ok i ↔ w.extractLsb' 8 24 = 0#24 ∧ w.extractLsb' 0 8 = i.opcode := by
  rw [← opcodeMap_eq_some_iff]
  by_cases h : w.extractLsb' 8 24 = 0#24
  · cases hop : opcodeMap (w.extractLsb' 0 8) with
    | none => simp [decodeCmd_of_reserved h hop]
    | some j => simp [decodeCmd_of_opcode h hop, h]
  · simp [decodeCmd_of_rsvd_ne h, h]

/-- A word is ILLEGAL exactly when RSVD is not zero or OP is reserved (R93). -/
theorem decodeCmd_eq_error_iff {w : Word} :
    (∃ e, decodeCmd w = .error e) ↔ (w.extractLsb' 8 24 ≠ 0#24 ∨ 0x09 ≤ (w.extractLsb' 0 8).toNat) := by
  rw [← opcodeMap_eq_none_iff]
  by_cases h : w.extractLsb' 8 24 = 0#24
  · cases hop : opcodeMap (w.extractLsb' 0 8) with
    | none => simp [decodeCmd_of_reserved h hop]
    | some j => simp [decodeCmd_of_opcode h hop, h]
  · simp [decodeCmd_of_rsvd_ne h, h]

/-- RSVD and OP are all of a word. -/
theorem word_eq_append_iff {w : Word} {rsvd : BitVec 24} {op : BitVec 8} :
    w = rsvd ++ op ↔ w.extractLsb' 8 24 = rsvd ∧ w.extractLsb' 0 8 = op := by
  constructor
  · rintro rfl
    exact ⟨BitVec.extractLsb'_append_eq_left, BitVec.extractLsb'_append_eq_right⟩
  · rintro ⟨rfl, rfl⟩
    rw [BitVec.extractLsb'_append_extractLsb'_eq_extractLsb' (start₁ := 0) (len₁ := 8) rfl]
    exact BitVec.extractLsb'_eq_self.symm

/-- Read through the table's numbering of 32 bits, a word decodes as itself. -/
theorem decodeTableWord_toNat (w : Word) : decodeTableWord 32 w.toNat = (decodeCmd w).toOption := by
  rw [decodeTableWord, Nat.mod_eq_of_lt w.isLt, if_pos w.isLt, BitVec.ofNat_toNat, BitVec.setWidth_eq]

/-! ### The operands a command reads (R91, R92) -/

/-- The captured value of an operand, as the `op` accessors of the state give it (R91). -/
def State.operand (s : State) : Operand → Nat
  | .src => s.opSrc
  | .dst => s.opDst
  | .len => s.opLen
  | .prior => s.opPrior

/-- Replacing one captured operand leaves the others. -/
theorem State.operand_withOperand_ne {o p : Operand} (h : p ≠ o) (s : State) (v : BitVec 64) :
    ({ s with cmd := s.cmd.withOperand o v } : State).operand p = s.operand p := by
  cases o <;> cases p <;> first | rfl | exact absurd rfl h

/-- What a command computes depends on the captured command through the operands it lists alone. -/
theorem cmdResult_congr_operands {i : Instr} {s : State} {c : Command}
    (h : ∀ o ∈ operandsRead i, ({ s with cmd := c } : State).operand o = s.operand o) :
    cmdResult i { s with cmd := c } = cmdResult i s := by
  cases i with
  | nop => rfl
  | loadIv => rfl
  | _ =>
    simp only [operandsRead, List.forall_mem_cons, State.operand] at h
    simp only [cmdResult, padResult, expandResult, compressResult, importHexResult, importBytesResult, exportHexResult,
      exportBytesResult, h]
    rfl

/-- The end of a command draws the hidden registers anew, so it does not depend on the captured command. -/
theorem State.complete_withCmd (s : State) (c : Command) (r : CmdResult) :
    ({ s with cmd := c } : State).complete r = s.complete r := by
  cases r <;> rfl

/-! ### The obligations -/

/-- Settles O4: RSVD and OP decide the decoding, and together they are the word. -/
theorem decodesExactlyItsEncoding : Obligations.DecodesExactlyItsEncoding := by
  intro w i
  rw [decodeCmd_eq_ok_iff, encode, word_eq_append_iff]

/-- Settles O6: an ILLEGAL word's Complete is the error entry with ILLEGAL_COMMAND, which changes only STATUS. -/
theorem illegalWordsFailWithIllegalCommand : Obligations.IllegalWordsFailWithIllegalCommand := by
  refine ⟨fun w => decodeCmd_eq_error_iff, fun s ha hw => ?_⟩
  obtain ⟨e, he⟩ := decodeCmd_eq_error_iff.2 hw
  have hstep := step_complete ha
  rw [State.commandResult_illegal he] at hstep
  exact ⟨_, hstep, ⟨rfl, rfl, rfl⟩, State.complete_keepsHostSide _ _, rfl, rfl, rfl, State.byte_congr rfl rfl⟩

/-- Settles O25: an unlisted operand differs from every listed one, so its value reaches neither the result nor the end. -/
theorem unlistedOperandsAreIgnored : Obligations.UnlistedOperandsAreIgnored := by
  refine ⟨by decide, fun i o v s ho => ?_⟩
  have hres : cmdResult i { s with cmd := s.cmd.withOperand o v } = cmdResult i s :=
    cmdResult_congr_operands fun p hp => s.operand_withOperand_ne (ne_of_mem_of_not_mem hp ho) v
  rw [exec_eq_complete, exec_eq_complete, hres, State.complete_withCmd]

/-- Settles O3: each word of the opcode map is its command's encoding. -/
theorem commandWordsDecode : Obligations.CommandWordsDecode := by
  refine ⟨?_, ?_, ?_, ?_, ?_, ?_, ?_, ?_, ?_⟩ <;> exact (decodesExactlyItsEncoding _ _).2 rfl

/-- Settles O5: the encoding is a word of 32 bits, which the table's numbering reads as itself. -/
theorem decodeEncodeRoundTrip : Obligations.DecodeEncodeRoundTrip := by
  intro i _
  have h : decodeCmd (encode i) = .ok i := (decodesExactlyItsEncoding _ i).2 rfl
  exact ⟨h, by rw [decodeTableWord_toNat, h]; rfl⟩

end Sys2Proof.Machine
end

section
/-!
PROOFS. The invariant of the HXE (R8, R32, R60, R110, R112, R230): each host action keeps it, and so does each Complete.
-/

namespace Sys2Proof.Machine

/-- What the invariant asks of a command's data: BUF is canonical and inside `size` bytes, and OUTLEN is at most `size`. -/
def Data.Fits (d : Data) (size : Nat) : Prop :=
  d.buf.wf = true ∧ d.buf.within size = true ∧ d.outlen.toNat ≤ size

theorem State.Inv.cfg_wf {s : State} (h : s.Inv) : s.cfg.wf = true :=
  h.1

theorem State.Inv.data_fits {s : State} (h : s.Inv) : s.data.Fits s.cfg.bufSize := by
  obtain ⟨-, hwf, hin, hlen, -⟩ := h
  exact ⟨hwf, hin, hlen⟩

/-- A running command is out of reset, since a held reset is IDLE. -/
theorem State.Inv.rstN_of_busy {s : State} (h : s.Inv) (hb : s.phase = .busy) : s.rstN = true := by
  obtain ⟨-, -, -, -, -, hheld⟩ := h
  by_contra hr
  obtain ⟨-, hidle, -⟩ := hheld (by simpa using hr)
  exact absurd (hidle.symm.trans hb) (by decide)

/-- Out of reset the invariant asks nothing of the reset values. -/
theorem State.inv_of_running {s : State} (hr : s.rstN = true) (hcfg : s.cfg.wf = true)
    (hfits : s.data.Fits s.cfg.bufSize)
    (hbusy : s.phase = .busy → s.done = false ∧ s.err = none ∧ OperandsCaptured s) : s.Inv := by
  obtain ⟨hwf, hin, hlen⟩ := hfits
  exact ⟨hcfg, hwf, hin, hlen, hbusy, fun hheld => absurd (hr.symm.trans hheld) (by decide)⟩

/-- A write inside the range keeps the form of BUF (R60). -/
theorem Data.Fits.memWrite {d : Data} {size a : Nat} {bs : List Byte} (h : d.Fits size) (ha : a + bs.length ≤ size) :
    (d.memWrite a bs).Fits size := by
  obtain ⟨hwf, hin, hlen⟩ := h
  exact ⟨Memory.wf_setBytes _ _ _ hwf, Memory.within_setBytes _ _ _ _ hin ha, hlen⟩

/-! ### A host action keeps the invariant -/

/-- A reset edge, to either level of `rst_n`, leaves the reset values and no command (R230, R231). -/
theorem applyReset_inv {s : State} (h : s.cfg.wf = true) (level : Bool) :
    ({ s.applyReset with rstN := level } : State).Inv :=
  ⟨h, rfl, rfl, Nat.zero_le _, nofun, fun _ => resetWith_resetValues s.cfg⟩

/-- Acceptance captures the operand registers and clears DONE and ERR (R110). -/
theorem State.Inv.accept {s : State} (h : s.Inv) (hr : s.rstN = true) (w : Word) : (s.accept w).Inv :=
  State.inv_of_running hr h.cfg_wf h.data_fits fun _ => ⟨rfl, rfl, rfl, rfl, rfl, rfl⟩

/-- A CTRL or STATUS write out of reset: DONE stays clear in a BUSY window, because a host never sets it (R27). -/
theorem State.Inv.writeFlags {s : State} (h : s.Inv) (hr : s.rstN = true) (ie ovr keep : Bool) :
    ({ s with ie := ie, ovr := ovr, done := s.done && keep } : State).Inv := by
  refine State.inv_of_running hr h.cfg_wf h.data_fits fun hb => ?_
  obtain ⟨-, -, -, -, hbusy, -⟩ := h
  obtain ⟨hdone, hrest⟩ := hbusy hb
  exact ⟨by rw [hdone, Bool.false_and], hrest⟩

/-- A write of one BUF word that the register map selects stays inside BUF (R24, R60). -/
theorem Data.Fits.memWrite_bufWord {d : Data} {c : Config} {a : Offset} {n : Nat} (h : d.Fits c.bufSize)
    (hd : decodeOffset c a = some (.bufWord n)) (v : Word) : (d.memWrite n (beBytes 4 v.toNat)).Fits c.bufSize := by
  obtain ⟨-, -, hn⟩ := decodeOffset_eq_bufWord_iff.1 hd
  exact h.memWrite (by rwa [beBytes_length])

/-- A performed write out of reset: to a flag register, an accepted command, or a store that only an IDLE HXE performs. -/
theorem State.Inv.writeTarget {s : State} {a : Offset} {t : Target} (h : s.Inv) (hr : s.rstN = true)
    (hd : decodeOffset s.cfg a = some t) (hkept : s.phase = .busy → t.dropsWhileBusy = false) (v : Word) :
    (s.writeTarget t v).Inv := by
  obtain hw | ⟨-, hw⟩ | ⟨-, hw⟩ | ⟨-, hw⟩ | ⟨hdrop, -, src, dst, len, lo, hi, x, buf, hw, hbuf⟩ :=
    s.writeTarget_cases t v
  all_goals rw [hw]
  · exact h
  · have hflags := h.writeFlags hr (v.getLsbD 0) s.ovr true
    rwa [Bool.and_true] at hflags
  · exact h.writeFlags hr s.ie (s.ovr && !v.getLsbD 2) (!v.getLsbD 1)
  · exact h.accept hr v
  · have hnotBusy : s.phase ≠ .busy := fun hb => absurd (hdrop.symm.trans (hkept hb)) (by decide)
    have hfits : ({ s.data with buf := buf } : Data).Fits s.cfg.bufSize := by
      obtain rfl | ⟨n, rfl, rfl⟩ := hbuf
      · exact h.data_fits
      · exact h.data_fits.memWrite_bufWord hd v
    exact State.inv_of_running hr h.cfg_wf hfits fun hb => absurd hb hnotBusy

theorem State.Inv.hostStep {s : State} (h : s.Inv) (op : HostOp) : (s.hostStep op).Inv := by
  obtain ⟨-, level, hop⟩ | ⟨_, _, _, hop⟩ | ⟨_, _, -, hb, -, hop⟩ | ⟨_, v, t, -, hr, hd, hkept, hop⟩ :=
    s.hostStep_cases op
  all_goals rw [hop]
  · exact applyReset_inv h.cfg_wf level
  · exact h
  · have hflags := h.writeFlags (h.rstN_of_busy hb) s.ie true true
    rwa [Bool.and_true] at hflags
  · exact h.writeTarget hr hd hkept v

/-! ### A Complete keeps the invariant -/

/-- A command's data fit again: a write of BUF was checked against the range, and OUTLEN is the checked PadLen (R133). -/
theorem cmdResult_fits {s : State} {i : Instr} {d : Data} (h : s.data.Fits s.cfg.bufSize)
    (hd : cmdResult i s = .ok d) : d.Fits s.cfg.bufSize := by
  obtain ⟨hout, hbuf⟩ := cmdResult_ok_cases hd
  have hlen : d.outlen.toNat ≤ s.cfg.bufSize := by
    obtain hsame | ⟨-, hpad, hrange⟩ := hout
    · obtain ⟨-, -, hlen⟩ := h
      rw [hsame]; exact hlen
    · rw [hpad, BitVec.toNat_ofNat]; exact (Nat.mod_le _ _).trans hrange
  obtain hsame | ⟨a, bs, hset, hrange⟩ := hbuf
  · obtain ⟨hwf, hin, -⟩ := h
    rw [Data.Fits, hsame]; exact ⟨hwf, hin, hlen⟩
  · obtain ⟨hwf, hin, -⟩ := h.memWrite hrange
    rw [Data.Fits, hset]; exact ⟨hwf, hin, hlen⟩

theorem commandResult_fits {s : State} {d : Data} (h : s.data.Fits s.cfg.bufSize) (hd : s.commandResult = .ok d) :
    d.Fits s.cfg.bufSize := by
  cases hdec : decodeCmd s.cmd.word with
  | ok i => exact cmdResult_fits h ((State.commandResult_ok hdec).symm.trans hd)
  | error e => cases (State.commandResult_illegal hdec).symm.trans hd

/-- Complete ends the BUSY window, so only the data it writes have to fit. -/
theorem State.Inv.complete {s : State} {r : CmdResult} (h : s.Inv) (hr : s.rstN = true)
    (hres : ∀ d, r = .ok d → d.Fits s.cfg.bufSize) : (s.complete r).Inv := by
  have hfits : (s.complete r).data.Fits s.cfg.bufSize := by
    cases r with
    | ok d => exact hres d rfl
    | error e => exact h.data_fits
  rw [← s.complete_rstN r] at hr
  rw [← s.complete_cfg r] at hfits
  have hcfg : (s.complete r).cfg.wf = true := by rw [State.complete_cfg]; exact h.cfg_wf
  exact State.inv_of_running hr hcfg hfits fun hb => absurd ((s.complete_phase r).symm.trans hb) (by decide)

/-- Settles O58: a host action keeps the invariant by `State.Inv.hostStep`, and a Complete by `State.Inv.complete`. -/
theorem stepKeepsInvariant : Obligations.StepKeepsInvariant := by
  intro s t hs h
  obtain rfl | ⟨op, rest, turns, -, rfl⟩ | ⟨ha, -⟩ := step_next_cases h
  · exact hs
  · exact State.Inv.hostStep (s := { s with inputs := rest, turns := turns }) hs op
  · rw [step_complete ha] at h
    injection h with h
    rw [← h]
    exact State.Inv.complete (s := { s with turns := s.turns.tail }) hs (hs.rstN_of_busy (State.busy_of_engine ha))
      fun _ hd => commandResult_fits hs.data_fits hd

end Sys2Proof.Machine
end

section
/-!
PROOFS. The life of a command (R110, R113 to R119, R207, R245): acceptance, which command the engine runs, what its result
depends on, its end, and the bound on a BUSY window.
-/

namespace Sys2Proof.Machine

/-! ### What Complete runs, and what its result depends on (R113, R118) -/

theorem State.runCommand_of_decode {s : State} {i : Instr} (h : decodeCmd s.cmd.word = .ok i) :
    s.runCommand = exec i s := by
  simp only [State.runCommand, h]

/-- A word of the table decodes as its low 32 bits do. -/
theorem decodeCmd_of_decodeTableWord {w : Nat} {i : Instr} (h : decodeTableWord 32 w = some i) :
    decodeCmd (BitVec.ofNat 32 (w % 2 ^ 32)) = .ok i := by
  rw [decodeTableWord, if_pos (Nat.mod_lt _ (by decide))] at h
  cases hdec : decodeCmd (BitVec.ofNat 32 (w % 2 ^ 32)) with
  | ok j => rw [hdec] at h; cases h; rfl
  | error e => rw [hdec] at h; cases h

/-- The result of a command is a function of the configuration, the captured command, H, OUTLEN and BUF, where BUF is the
written bytes and the epoch that fixes the unwritten ones. -/
theorem cmdResult_congr (i : Instr) {s s' : State} (hcfg : s'.cfg = s.cfg) (hcmd : s'.cmd = s.cmd) (hh : s'.h = s.h)
    (hbuf : s'.buf = s.buf) (hout : s'.outlen = s.outlen) (hepoch : s'.epoch = s.epoch) :
    cmdResult i s' = cmdResult i s := by
  have hdata : s'.data = s.data := by simp only [State.data, hh, hbuf, hout]
  have hread : ∀ a n, s'.memRead a n = s.memRead a n := State.memRead_congr hbuf hepoch
  have hrange : ∀ a n, s'.inRange a n = s.inRange a n := fun a n => by simp only [State.inRange, hcfg]
  have hops : s'.opSrc = s.opSrc ∧ s'.opDst = s.opDst ∧ s'.opLen = s.opLen ∧ s'.opPrior = s.opPrior := by
    simp only [State.opSrc, State.opDst, State.opLen, State.opPrior, hcmd, and_self]
  cases i <;>
    simp only [cmdResult, nopResult, padResult, expandResult, compressResult, loadIvResult, importHexResult,
      importBytesResult, exportHexResult, exportBytesResult, hdata, hread, hrange, hops, hh]

/-! ### The captured PRIOR (R33, R91) -/

theorem State.prior_toNat (s : State) : s.prior.toNat = s.priorHi.toNat * 2 ^ 32 + s.priorLo.toNat := by
  rw [State.prior, BitVec.toNat_append, ← Nat.shiftLeft_add_eq_or_of_lt s.priorLo.isLt, Nat.shiftLeft_eq]

/-! ### The host's waiting actions (R23, R96) -/

theorem State.writeTarget_inputs (s : State) (t : Target) (v : Word) : (s.writeTarget t v).inputs = s.inputs := by
  obtain h | ⟨-, h⟩ | ⟨-, h⟩ | ⟨-, h⟩ | ⟨-, -, _, _, _, _, _, _, _, h, -⟩ := s.writeTarget_cases t v
  · rw [h]
  iterate 3 (rw [h]; rfl)
  · rw [h]

theorem State.transact_inputs (s : State) (tx : Txn) : (s.transact tx).inputs = s.inputs := by
  cases hr : s.rstN with
  | false => rw [State.transact_inReset hr]; rfl
  | true =>
    cases tx with
    | read a =>
      rw [State.transact_read hr]
      obtain ⟨_, _, h⟩ | h := s.busRead_cases a
      all_goals (rw [h]; rfl)
    | write a v =>
      rw [State.transact_write hr]
      obtain ⟨_, h⟩ | ⟨-, -, h⟩ | ⟨t, -, -, h⟩ := s.busWrite_cases a v
      · rw [h]; rfl
      · rw [h]; rfl
      · rw [h]; exact s.writeTarget_inputs t v

/-- No action puts a new one in line, but for a POLL that repeats (R96). -/
theorem State.hostStep_inputs_subset (s : State) (op : HostOp) : (s.hostStep op).inputs ⊆ .poll :: s.inputs := by
  cases op with
  | txn tx =>
    rw [State.hostStep, s.transact_inputs]
    exact List.subset_cons_self _ _
  | assertReset => exact List.subset_cons_self _ _
  | releaseReset =>
    rw [State.hostStep]
    split_ifs <;> exact List.subset_cons_self _ _
  | poll =>
    simp only [State.hostStep]
    split_ifs
    · exact List.Subset.refl _
    · exact List.subset_cons_self _ _

/-! ### A BUSY window ends (R113, R245) -/

/-- The host moves in a BUSY window only when it has an action and the schedule's next turn is its own. -/
theorem State.exists_of_busy_host {s : State} (hb : s.phase = .busy) (ha : s.nextAgent = .host) :
    ∃ op rest turns, s.inputs = op :: rest ∧ s.turns = .host :: turns := by
  rw [State.nextAgent, if_pos ((State.busy_eq_true s).2 hb)] at ha
  split at ha
  next op rest turns hin hturns => exact ⟨op, rest, turns, hin, hturns⟩
  next => cases ha

/-- A window in which the host may still act: BUSY, out of reset, with no reset among the waiting actions. -/
def State.Window (s : State) : Prop :=
  s.phase = .busy ∧ s.rstN = true ∧ ∀ op ∈ s.inputs, op ≠ .assertReset

/-- No action but a reset closes a window or touches the schedule. -/
theorem State.Window.hostStep {s : State} (h : s.Window) {op : HostOp} (hop : op ≠ .assertReset) :
    (s.hostStep op).Window ∧ (s.hostStep op).turns = s.turns := by
  obtain ⟨hb, hr, hin⟩ := h
  have hnotReset : ¬ op.resets s := by
    rintro (hassert | ⟨-, hheld⟩)
    · exact hop hassert
    · exact absurd (hr.symm.trans hheld) (by decide)
  have hwaiting : ∀ x ∈ (s.hostStep op).inputs, x ≠ .assertReset := by
    intro x hx
    obtain rfl | hx := List.mem_cons.1 (s.hostStep_inputs_subset op hx)
    · decide
    · exact hin x hx
  obtain ⟨_, _, _, _, _, _, heff⟩ := State.hostStep_of_busy hb hnotReset
  rw [heff] at hwaiting ⊢
  exact ⟨⟨hb, hr, hwaiting⟩, rfl⟩

/-- The host's move in a window uses up one turn and leaves a window. -/
theorem State.Window.step_host {s : State} (h : s.Window) (ha : s.nextAgent = .host) :
    ∃ t, step s = .next t ∧ t.Window ∧ s.turns.length = t.turns.length + 1 := by
  obtain ⟨hb, hr, hin⟩ := h
  obtain ⟨op, rest, turns, hop, hturns⟩ := State.exists_of_busy_host hb ha
  rw [hop, List.forall_mem_cons] at hin
  obtain ⟨hne, hrest⟩ := hin
  obtain ⟨hwindow, hkept⟩ := State.Window.hostStep (s := { s with inputs := rest, turns := turns }) ⟨hb, hr, hrest⟩ hne
  have hstep := (stepPerformsOneHostAction.1 s op rest hop).2 hb (by rw [hturns]; rfl)
  rw [hturns, List.tail_cons] at hstep
  exact ⟨_, hstep, hwindow, by rw [hturns, hkept, List.length_cons]⟩

/-- The engine's move completes the command; each host move before it uses up a turn, and the schedule is finite. -/
theorem State.Window.completes {s : State} (h : s.Window) :
    ∃ n t, n ≤ s.turns.length + 1 ∧ Sys2Proof.core.run n s = .next t ∧ t.phase = .idle ∧ t.done = true := by
  cases ha : s.nextAgent with
  | engine =>
    exact ⟨1, _, Nat.le_add_left 1 _, core_run_succ 0 (step_complete ha), State.complete_phase _ _,
      State.complete_done _ _⟩
  | host =>
    obtain ⟨t, hstep, ht, hlen⟩ := h.step_host ha
    obtain ⟨n, u, hn, hrun, hend⟩ := ht.completes
    exact ⟨n + 1, u, by omega, (core_run_succ n hstep).trans hrun, hend⟩
termination_by s.turns.length

/-! ### The obligations -/

/-- Settles O23: the only end with an error is the error entry. -/
theorem failedCommandChangesOnlyStatus : Obligations.FailedCommandChangesOnlyStatus := by
  intro i s t h herr
  rw [exec_next_iff] at h
  subst h
  have hkeeps := s.complete_keepsHostSide (cmdResult i s)
  obtain ⟨d, -, hend⟩ | ⟨e, -, hend⟩ := s.complete_cases (cmdResult i s)
  all_goals rw [hend] at hkeeps herr ⊢
  · exact absurd rfl herr
  · exact ⟨⟨rfl, rfl, rfl⟩, hkeeps, rfl, rfl, rfl⟩

/-- Settles O24: the results are equal, and an end with an error keeps data on which the two states agree. -/
theorem execReadsOnlyItsInputs : Obligations.ExecReadsOnlyItsInputs := by
  intro i s s' t t' hcfg hcmd hh hbuf hout hepoch h h'
  rw [exec_next_iff] at h h'
  rw [cmdResult_congr i hcfg hcmd hh hbuf hout hepoch] at h'
  subst h h'
  cases cmdResult i s with
  | ok d => exact ⟨rfl, rfl, rfl, rfl⟩
  | error e => exact ⟨hh, hbuf, hout, rfl⟩

/-- Settles O59: a BUSY engine out of reset is in a window. -/
theorem busyWindowEnds : Obligations.BusyWindowEnds :=
  fun _ hb hr hin => State.Window.completes ⟨hb, hr, hin⟩

/-- Settles O32: NOP's encoding is the zero word, and its result is the data as they are. -/
theorem nopHasNoDataEffect : Obligations.NopHasNoDataEffect :=
  ⟨fun w _ => decodesExactlyItsEncoding w .nop,
    fun _ => succeeds_of_result rfl ⟨rfl, rfl, rfl, sameBytes_of_buf_eq rfl rfl⟩⟩

/-- Settles O7: in the engine's turn the step is `runCommand`, which dispatches on the decoded word. -/
theorem stepRunsDecodedCommand : Obligations.StepRunsDecodedCommand := by
  intro s i ha hdec
  rw [step_engine ha]
  exact State.runCommand_of_decode hdec

/-- Settles O9: the accepted word is the one captured, and the turn put in front of the schedule is the engine's. -/
theorem fetchWordRunsNext : Obligations.FetchWordRunsNext := by
  intro s w i h
  have ha : (s.withFetchWord 32 w).nextAgent = .engine := by
    cases ha : (s.withFetchWord 32 w).nextAgent with
    | engine => rfl
    | host =>
      obtain ⟨_, _, _, -, hturns⟩ := State.exists_of_busy_host rfl ha
      cases hturns
  exact stepRunsDecodedCommand _ i ha (decodeCmd_of_decodeTableWord h)

/-- Settles O10: the host's turn and the engine's Complete each answer a next state. -/
theorem stepAlwaysAnswersNext : Obligations.StepAlwaysAnswersNext := by
  intro s
  cases ha : s.nextAgent with
  | host => exact ⟨_, step_host ha⟩
  | engine => exact ⟨_, step_complete ha⟩

/-- Settles O22: a CMD write while IDLE is performed, and acceptance captures the operand registers. -/
theorem cmdWriteIsAccepted : Obligations.CmdWriteIsAccepted := by
  intro s w hr hi
  have h : s.transact (.write 0x00C#13 w) = (s.accept w).respond none .ok :=
    State.transact_write_reg (r := .cmd) hr (.inl hi) w
  rw [h]
  exact ⟨s.prior, s.prior_toNat, rfl, rfl, rfl, rfl, s.prior_toNat⟩

end Sys2Proof.Machine
end

section
/-!
PROOFS. The padding (R130 to R136): the number of zero bytes, the layout of the padded message and its length field, and PAD.
-/

namespace Sys2Proof.Machine

/-! ### The number of zero bytes (R130) -/

theorem padZeros_le (l p : Nat) : padZeros l p ≤ 63 := by
  rw [padZeros]
  omega

/-- `z` zero bytes align the stream exactly when `z` is the rule's number, modulo 64. -/
theorem stream_aligned_iff (l p z : Nat) : (l + 1 + z + p + 8) % 64 = 0 ↔ z % 64 = padZeros l p := by
  rw [padZeros]
  omega

/-- `z` is the rule's number exactly when 0x80 and `z` zero bytes end 8 bytes before a block does. -/
theorem padZeros_eq_iff (l p : Nat) {z : Nat} (hz : z ≤ 63) : padZeros l p = z ↔ (p + l + z) % 64 = 55 := by
  rw [padZeros]
  omega

/-- Only the length of the whole stream counts, not where the prior bytes end. -/
theorem padZeros_split {l j : Nat} (h : j ≤ l) (p : Nat) : padZeros (l - j) (p + j) = padZeros l p := by
  rw [padZeros, padZeros, show p + j + (l - j) = p + l by omega]

theorem padLen_aligns (l p : Nat) : (padLen l p + p) % 64 = 0 := by
  have hz : padZeros l p % 64 = padZeros l p := Nat.mod_eq_of_lt (Nat.lt_succ_of_le (padZeros_le l p))
  rw [← (stream_aligned_iff l p _).2 hz, padLen, Nat.add_right_comm _ 8 p]

/-! ### The length field (R12, R131) -/

/-- The last of the big-endian bytes is the least significant. -/
theorem beBytes_succ (n v : Nat) : beBytes (n + 1) v = beBytes n (v / 256) ++ [BitVec.ofNat 8 v] := by
  have hshift : ∀ i ∈ List.range n,
      BitVec.ofNat 8 (v / 256 ^ (n + 1 - 1 - i)) = BitVec.ofNat 8 (v / 256 / 256 ^ (n - 1 - i)) := by
    intro i hi
    rw [List.mem_range] at hi
    rw [Nat.div_div_eq_div_mul, ← Nat.pow_succ', show n + 1 - 1 - i = n - 1 - i + 1 by omega]
  rw [beBytes, List.range_succ, List.map_append, List.map_congr_left hshift, beBytes]
  simp

/-- Big-endian decoding gives back what `n` bytes hold of a number. -/
theorem beBytes_decode (n v : Nat) : (beBytes n v).foldl (fun acc b => acc * 256 + b.toNat) 0 = v % 256 ^ n := by
  induction n generalizing v with
  | zero => rw [Nat.pow_zero, Nat.mod_one]; rfl
  | succ n ih =>
    rw [beBytes_succ, List.foldl_append, ih, List.foldl_cons, List.foldl_nil, BitVec.toNat_ofNat, pow_succ' 256 n,
      Nat.mod_mul]
    omega

/-! ### The layout of the padded message (R131, R135) -/

theorem padBytes_eq (m : List Byte) (p : Nat) :
    padBytes m p = m ++ 0x80#8 :: (List.replicate (padZeros m.length p) 0x00#8 ++
      beBytes 8 (8 * (p + m.length) % 2 ^ 64)) := by
  simp [padBytes]

theorem padBytes_lengthField (m : List Byte) (p : Nat) :
    (padBytes m p).drop ((padBytes m p).length - 8) = beBytes 8 (8 * (p + m.length) % 2 ^ 64) := by
  refine List.drop_left' ?_
  rw [padBytes_length, padLen, Nat.add_sub_cancel]
  simp only [List.length_append, List.length_singleton, List.length_replicate]

theorem padBytes_decodeLengthField (m : List Byte) (p : Nat) :
    ((padBytes m p).drop ((padBytes m p).length - 8)).foldl (fun acc b => acc * 256 + b.toNat) 0 =
      8 * (p + m.length) % 2 ^ 64 := by
  rw [padBytes_lengthField, beBytes_decode, show 256 ^ 8 = 2 ^ 64 by rfl, Nat.mod_mod]

theorem padBytes_zero {m : List Byte} {p j : Nat} (hlo : m.length + 1 ≤ j) (hhi : j + 9 ≤ padLen m.length p) :
    (padBytes m p)[j]? = some 0x00#8 := by
  rw [padLen] at hhi
  obtain ⟨i, rfl⟩ := Nat.exists_eq_add_of_le hlo
  rw [padBytes_eq, List.getElem?_append_right (by omega), show m.length + 1 + i - m.length = i + 1 by omega,
    List.getElem?_cons_succ, List.getElem?_append_left (by rw [List.length_replicate]; omega),
    List.getElem?_replicate_of_lt (by omega)]

/-! ### PAD's result (R133) -/

theorem Config.bufSize_le_of_wf {c : Config} (h : c.wf = true) : c.bufSize ≤ 4096 := by
  simp only [Config.wf, Bool.and_eq_true, decide_eq_true_eq] at h
  exact h.2

theorem padResult_of_fits {s : State} (hsrc : s.opSrc + s.opLen ≤ s.cfg.bufSize)
    (hdst : s.opDst + padLen s.opLen s.opPrior ≤ s.cfg.bufSize) :
    padResult s =
      .ok { s.data.memWrite s.opDst (padBytes (s.memRead s.opSrc s.opLen) s.opPrior) with
            outlen := BitVec.ofNat 32 (padLen s.opLen s.opPrior) } := by
  rw [padResult, (s.inRange_eq_true _ _).2 hsrc, (s.inRange_eq_true _ _).2 hdst]
  rfl

/-- The input range is checked first, and either check gives the same error. -/
theorem padResult_of_not_fits {s : State}
    (h : ¬ (s.opSrc + s.opLen ≤ s.cfg.bufSize ∧ s.opDst + padLen s.opLen s.opPrior ≤ s.cfg.bufSize)) :
    padResult s = .error .bufferRange := by
  rw [padResult]
  by_cases hsrc : s.opSrc + s.opLen ≤ s.cfg.bufSize
  · have hdst := (s.inRange_eq_false _ _).2 fun hdst => h ⟨hsrc, hdst⟩
    rw [(s.inRange_eq_true _ _).2 hsrc, hdst]
    rfl
  · rw [(s.inRange_eq_false _ _).2 hsrc]
    rfl

/-! ### The obligations -/

/-- Settles O33: a write of BUF is read back and leaves the rest, and a padded length inside BUF fits OUTLEN. -/
theorem padWritesPaddedMessage : Obligations.PadWritesPaddedMessage := by
  refine ⟨(decodesExactlyItsEncoding _ .pad).2 rfl, fun s => ⟨fun ⟨hsrc, hdst⟩ => ?_, fun h => ?_⟩⟩
  · have hlen : (padBytes (s.memRead s.opSrc s.opLen) s.opPrior).length = padLen s.opLen s.opPrior := by
      rw [padBytes_length, State.memRead_length]
    refine succeeds_of_result (padResult_of_fits hsrc hdst) ⟨?_, ?_, rfl, fun hc => ?_, rfl⟩
    · rw [← hlen]; exact State.memRead_of_setBytes rfl rfl
    · rw [← hlen]; exact sameBytesOutside_of_setBytes rfl rfl
    · have hmax := Config.bufSize_le_of_wf hc
      exact Nat.mod_eq_of_lt (by omega)
  · exact failsWith_of_result (padResult_of_not_fits h)

/-- Settles O42: the padded length aligns the stream, and the last 8 bytes are the length field. -/
theorem padAlignsTheWholeStream : Obligations.PadAlignsTheWholeStream := by
  intro m p
  have haligned := padLen_aligns m.length p
  have hfield := padBytes_decodeLengthField m p
  refine ⟨padBytes_length m p, haligned, ?_, hfield, fun hlt => hfield.trans (Nat.mod_eq_of_lt hlt)⟩
  rw [padBytes_length]
  omega

/-- Settles O43: the bounds are those of z, and the bytes are read off the layout. -/
theorem padBoundsAndLayout : Obligations.PadBoundsAndLayout := by
  intro m p
  have hz := padZeros_le m.length p
  have hmax := padZeros_eq_iff m.length p (le_refl 63)
  have hmin := padZeros_eq_iff m.length p (Nat.zero_le 63)
  refine ⟨hz, ?_, ?_, ?_, ?_, ?_, ?_, ?_, fun j => padBytes_zero⟩
  iterate 2 (rw [padLen]; omega)
  · omega
  iterate 2 (rw [padLen]; omega)
  · rw [padBytes_eq, List.take_left]
  · rw [padBytes_eq, List.getElem?_append_right (le_refl _), Nat.sub_self, List.getElem?_cons_zero]

/-- Settles O44: the two paddings have the same zeros and the same total length. -/
theorem padSplitsAtAnyPoint : Obligations.PadSplitsAtAnyPoint := by
  intro m p j hj
  have htotal : p + j + (m.length - j) = p + m.length := by omega
  rw [padBytes_eq m, padBytes_eq (m.drop j), List.length_drop, padZeros_split hj, htotal, ← List.append_assoc,
    List.take_append_drop]

/-- Settles O41: R130's subtraction never goes below 0, and fewer zeros than z are another remainder modulo 64. -/
theorem padUsesFewestZeros : Obligations.PadUsesFewestZeros := by
  intro l p
  have hz := padZeros_le l p
  refine ⟨?_, rfl, hz, stream_aligned_iff l p, fun z hlt haligned => ?_⟩
  · rw [padZeros]
    omega
  · rw [stream_aligned_iff, Nat.mod_eq_of_lt (by omega)] at haligned
    omega

end Sys2Proof.Machine
end

section
/-!
PROOFS. The message schedule and EXPAND (R140 to R142): each word as the recurrence over the words before it, and the words as
bytes of BUF.
-/

namespace Sys2Proof.Machine

/-! ### The recurrence (R140, R141) -/

theorem extendSchedule_prefix (n : Nat) (ws : List Word) : ws <+: extendSchedule n ws := by
  induction n generalizing ws with
  | zero => exact List.prefix_refl ws
  | succ n ih => exact (List.prefix_append ws _).trans (ih _)

/-- Each word added is the next word after those before it. -/
theorem extendSchedule_getD_eq_nextWord {n : Nat} {ws : List Word} {i : Nat} (hlo : ws.length ≤ i)
    (hhi : i < n + ws.length) :
    (extendSchedule n ws).getD i 0#32 = nextWord ((extendSchedule n ws).take i) := by
  induction n generalizing ws with
  | zero => omega
  | succ n ih =>
    have hlen : (ws ++ [nextWord ws]).length = ws.length + 1 := by simp
    obtain rfl | hlt := hlo.eq_or_lt
    · have hbefore : (extendSchedule (n + 1) ws).take ws.length = ws :=
        (List.prefix_iff_eq_take.1 (extendSchedule_prefix (n + 1) ws)).symm
      rw [hbefore, extendSchedule, extendSchedule_getD _ _ _ (by omega)]
      simp
    · exact ih (by omega) (by omega)

/-- The next word after the first i, in terms of the whole list (R140). -/
theorem nextWord_take {ws : List Word} {i : Nat} (hlo : 16 ≤ i) (hhi : i ≤ ws.length) :
    nextWord (ws.take i) = ws.getD (i - 16) 0#32 + sigma0 (ws.getD (i - 15) 0#32) + ws.getD (i - 7) 0#32 +
      sigma1 (ws.getD (i - 2) 0#32) := by
  have hback : ∀ k, 0 < k → k ≤ 16 → (ws.take i).getD (i - k) 0#32 = ws.getD (i - k) 0#32 := by
    intro k hk hk16
    rw [List.getD_eq_getElem?_getD, List.getElem?_take_of_lt (by omega), List.getD_eq_getElem?_getD]
  rw [nextWord, List.length_take_of_le hhi, hback 16, hback 15, hback 7, hback 2] <;> omega

/-! ### The two parts of a block's schedule (R140) -/

theorem blockWords_length (block : List Byte) : (blockWords block).length = 16 := by
  rw [blockWords, List.length_map, List.length_range]

theorem expandBlock_getD_of_lt (block : List Byte) {i : Nat} (h : i < 16) :
    (expandBlock block).getD i 0#32 = be32At block (4 * i) := by
  rw [expandBlock, extendSchedule_getD _ _ _ (by rwa [blockWords_length])]
  simp [blockWords, h]

theorem expandBlock_getD_of_ge (block : List Byte) {i : Nat} (hlo : 16 ≤ i) (hhi : i < 64) :
    (expandBlock block).getD i 0#32 =
      (expandBlock block).getD (i - 16) 0#32 + sigma0 ((expandBlock block).getD (i - 15) 0#32) +
        (expandBlock block).getD (i - 7) 0#32 + sigma1 ((expandBlock block).getD (i - 2) 0#32) := by
  have hnext : (expandBlock block).getD i 0#32 = nextWord ((expandBlock block).take i) :=
    extendSchedule_getD_eq_nextWord (by rwa [blockWords_length]) (by rwa [blockWords_length])
  rw [hnext, nextWord_take hlo (by rw [expandBlock_length]; omega)]

/-! ### EXPAND's result (R142) -/

theorem expandResult_of_fits {s : State} (hsrc : s.opSrc + 64 ≤ s.cfg.bufSize) (hdst : s.opDst + 256 ≤ s.cfg.bufSize) :
    expandResult s = .ok (s.data.memWrite s.opDst (wordsBytes (expandBlock (s.memRead s.opSrc 64)))) := by
  rw [expandResult, (s.inRange_eq_true _ _).2 hsrc, (s.inRange_eq_true _ _).2 hdst]
  rfl

/-- The range of the block is checked first, and either check gives the same error. -/
theorem expandResult_of_not_fits {s : State}
    (h : ¬ (s.opSrc + 64 ≤ s.cfg.bufSize ∧ s.opDst + 256 ≤ s.cfg.bufSize)) :
    expandResult s = .error .bufferRange := by
  rw [expandResult]
  by_cases hsrc : s.opSrc + 64 ≤ s.cfg.bufSize
  · have hdst := (s.inRange_eq_false _ _).2 fun hdst => h ⟨hsrc, hdst⟩
    rw [(s.inRange_eq_true _ _).2 hsrc, hdst]
    rfl
  · rw [(s.inRange_eq_false _ _).2 hsrc]
    rfl

/-- BUF after a command that writes bytes and succeeds; stated for any bytes, so that no proof evaluates them. -/
theorem State.succeed_memWrite_buf (s : State) (a : Nat) (bs : List Byte) :
    (s.succeed (s.data.memWrite a bs)).buf = s.buf.setBytes a bs := rfl

/-- Words written big-endian are read back one by one. -/
theorem State.memRead_of_setWords {s t : State} {a : Nat} {ws : List Word}
    (hb : t.buf = s.buf.setBytes a (wordsBytes ws)) (he : t.epoch = s.epoch) {i : Nat} (hi : i < ws.length) :
    t.memRead (a + 4 * i) 4 = beBytes 4 (ws.getD i 0#32).toNat := by
  rw [← wordsBytes_slice ws i hi, ← State.memRead_of_setBytes hb he,
    State.memRead_slice _ _ _ _ _ (by rw [wordsBytes_length]; omega)]

/-! ### The obligations -/

/-- Settles O45: sixteen words are read from the block, and the other 48 are added by the recurrence. -/
theorem scheduleFollowsRecurrence : Obligations.ScheduleFollowsRecurrence :=
  fun block _ => ⟨expandBlock_length block, fun _ => expandBlock_getD_of_lt block, fun _ => expandBlock_getD_of_ge block⟩

/-- Settles O34: the 64 words are written as 256 bytes, each read back as its four. -/
theorem expandWritesSchedule : Obligations.ExpandWritesSchedule := by
  refine ⟨(decodesExactlyItsEncoding _ .expand).2 rfl, fun s => ⟨fun ⟨hsrc, hdst⟩ => ?_, fun h => ?_⟩⟩
  · have hlen : (wordsBytes (expandBlock (s.memRead s.opSrc 64))).length = 256 := by
      rw [wordsBytes_length, expandBlock_length]
    have hbuf := s.succeed_memWrite_buf s.opDst (wordsBytes (expandBlock (s.memRead s.opSrc 64)))
    refine succeeds_of_result (expandResult_of_fits hsrc hdst) ⟨fun i hi => ?_, ?_, rfl, rfl⟩
    · exact State.memRead_of_setWords hbuf rfl (by rwa [expandBlock_length])
    · rw [← hlen]; exact sameBytesOutside_of_setBytes hbuf rfl
  · exact failsWith_of_result (expandResult_of_not_fits h)

end Sys2Proof.Machine
end

section
/-!
PROOFS. The compression and COMPRESS (R150 to R157): the constants, one round and one block, the chaining of blocks, and
length extension.
-/

namespace Sys2Proof.Machine

/-! ### One block (R151, R152) -/

/-- Register values that follow one another round by round are those of the rounds. -/
theorem rounds_eq_of_chain {w : List Word} {r : Nat → Working} {n : Nat}
    (h : ∀ t, t < n → r (t + 1) = round t (r t) w) : r n = rounds w n (r 0) := by
  induction n with
  | zero => rfl
  | succ n ih => rw [h n n.lt_succ_self, ih fun t ht => h t (Nat.lt_succ_of_lt ht), rounds]

/-! ### The chaining of blocks (R153, R155) -/

@[simp] theorem compressN_nil (x : HashState) : compressN x [] = x := rfl

/-- The first block is compressed first, and its state feeds whatever follows. -/
theorem compressN_block_append (x : HashState) {block : List Byte} (h : block.length = 64) (rest : List Byte) :
    compressN x (block ++ rest) = compressN (compress1 x block) rest := by
  have hblocks : (block ++ rest).length / 64 = rest.length / 64 + 1 := by
    rw [List.length_append]
    omega
  rw [compressN, hblocks, compressBlocks, List.take_left' h, List.drop_left' h, compressN]

/-- Whole blocks may be compressed apart from what follows them. -/
theorem compressN_append (x : HashState) {a : List Byte} (h : a.length % 64 = 0) (b : List Byte) :
    compressN x (a ++ b) = compressN (compressN x a) b := by
  obtain ⟨n, hn⟩ := Nat.dvd_of_mod_eq_zero h
  induction n generalizing x a with
  | zero => rw [List.length_eq_zero_iff.1 hn, List.nil_append, compressN_nil]
  | succ n ih =>
    have hfirst : (a.take 64).length = 64 := List.length_take_of_le (by omega)
    have hrest : (a.drop 64).length = 64 * n := by rw [List.length_drop]; omega
    rw [← List.take_append_drop 64 a, List.append_assoc, compressN_block_append x hfirst,
      compressN_block_append x hfirst, ih _ (by omega) hrest]

/-! ### The padding of a continued message (R136, R157) -/

/-- The padding of a message is that of its second part, with the first part counted as prior bytes. -/
theorem padBytes_append (a b : List Byte) (p : Nat) : padBytes (a ++ b) p = a ++ padBytes b (p + a.length) := by
  have hsplit := padSplitsAtAnyPoint (a ++ b) p a.length (by simp)
  rwa [List.take_left, List.drop_left] at hsplit

/-- A padded message that starts the stream is whole blocks. -/
theorem padBytes_zero_aligned (m : List Byte) : (padBytes m 0).length % 64 = 0 := by
  rw [padBytes_length]
  exact padLen_aligns m.length 0

/-! ### COMPRESS's result (R154) -/

theorem compressResult_of_unaligned {s : State} (h : s.opLen % 64 ≠ 0) :
    compressResult s = .error .internalAlignment :=
  if_pos h

theorem compressResult_of_not_fits {s : State} (h : s.opLen % 64 = 0) (hsrc : ¬ s.opSrc + s.opLen ≤ s.cfg.bufSize) :
    compressResult s = .error .bufferRange := by
  rw [compressResult, if_neg (not_not.2 h), (s.inRange_eq_false _ _).2 hsrc]
  rfl

theorem compressResult_of_fits {s : State} (h : s.opLen % 64 = 0) (hsrc : s.opSrc + s.opLen ≤ s.cfg.bufSize) :
    compressResult s = .ok { s.data with h := compressN s.h (s.memRead s.opSrc s.opLen) } := by
  rw [compressResult, if_neg (not_not.2 h), (s.inRange_eq_true _ _).2 hsrc]
  rfl

/-! ### The obligations -/

/-- Settles O35: the alignment, the range, and H from the blocks, which are none for LEN = 0. -/
theorem compressUpdatesChainingState : Obligations.CompressUpdatesChainingState := by
  refine ⟨(decodesExactlyItsEncoding _ .compress).2 rfl, fun s =>
    ⟨fun hlen => failsWith_of_result (compressResult_of_unaligned hlen),
      fun hlen hsrc => failsWith_of_result (compressResult_of_not_fits hlen hsrc), fun hlen hsrc => ?_⟩⟩
  have hempty : s.opLen = 0 → compressN s.h (s.memRead s.opSrc s.opLen) = s.h := by
    intro hzero
    rw [hzero, State.memRead_zero, compressN_nil]
  exact succeeds_of_result (compressResult_of_fits hlen hsrc) ⟨rfl, rfl, rfl, sameBytes_of_buf_eq rfl rfl, hempty⟩

/-- Settles O46: the cube roots are checked word by word, a round is the rule's, and a chain of 64 rounds is the block's. -/
theorem roundAndBlockFollowTheRules : Obligations.RoundAndBlockFollowTheRules := by
  refine ⟨⟨rfl, by decide⟩, ?_, ?_⟩
  · rintro t r w _ _ rfl rfl
    rfl
  · intro x block r hload hchain
    rw [compress1, rounds_eq_of_chain hchain, hload]
    rfl

/-- Settles O47: no block leaves H, and the first block is compressed before the rest. -/
theorem blocksAreChainedInOrder : Obligations.BlocksAreChainedInOrder :=
  ⟨compressN_nil, fun x _ rest hblock _ => compressN_block_append x hblock rest⟩

/-- Settles O48: by the number of blocks of the first sequence. -/
theorem compressionChains : Obligations.CompressionChains :=
  fun x _ b ha _ => (compressN_append x ha b).symm

/-- Settles O49: the padding splits after Q, and the compression chains over the split. -/
theorem lengthExtension : Obligations.LengthExtension := by
  refine ⟨fun X Y => ⟨padBytes_zero_aligned X, ?_⟩, fun secret known => ?_⟩
  · rw [padBytes_append, Nat.zero_add, compressN_append iv (padBytes_zero_aligned X)]
  · have hsplit := padBytes_append secret known 0
    rw [Nat.zero_add] at hsplit
    exact ⟨hsplit, by rw [hsplit, List.length_append]⟩

end Sys2Proof.Machine
end

section
/-!
PROOFS. The spellings of the codec (R170, R171, R174, R176): hex digits, words and states as text and as bytes, and the two
inverse laws of each spelling.
-/

namespace Sys2Proof.Machine

/-! ### Digits (R170, R171) -/

theorem hexVal_eq_none {c : Byte}
    (h : c.toNat < 0x30 ∨ (0x39 < c.toNat ∧ c.toNat < 0x41) ∨ (0x46 < c.toNat ∧ c.toNat < 0x61) ∨ 0x66 < c.toNat) :
    hexVal c = none := by
  rw [hexVal, if_neg (by omega), if_neg (by omega), if_neg (by omega)]

theorem lowerHex_of_not_upper {c : Byte} (h : c.toNat < 0x41 ∨ 0x46 < c.toNat) : lowerHex c = c :=
  if_neg (by omega)

/-- The spelling of a digit's value is the digit in lower case: one case per range of digits. -/
theorem hexChar_of_hexVal {c : Byte} {v : Nat} (h : hexVal c = some v) : hexChar v = lowerHex c := by
  apply BitVec.eq_of_toNat_eq
  unfold hexVal at h
  split_ifs at h with hdec hlow hup <;> cases h
  · rw [lowerHex_of_not_upper (by omega), hexChar, if_pos (by omega), BitVec.toNat_ofNat]
    omega
  · rw [lowerHex_of_not_upper (by omega), hexChar, if_neg (by omega), BitVec.toNat_ofNat]
    omega
  · rw [lowerHex, if_pos hup, hexChar, if_neg (by omega), BitVec.toNat_ofNat, BitVec.toNat_ofNat]
    omega

theorem isHexDigit_iff {c : Byte} : isHexDigit c = true ↔ ∃ v, hexVal c = some v :=
  Option.isSome_iff_exists

theorem isHexDigit_hexChar {v : Nat} (h : v < 16) : isHexDigit (hexChar v) = true := by
  rw [isHexDigit, hexVal_hexChar h]
  rfl

/-! ### Numbers as digit strings, of any length -/

/-- The low `n` hex digits of a number, most significant first; `hexText` is the case `n = 8` (R171). -/
def hexChars (n v : Nat) : List Byte :=
  (List.range n).map fun d => hexChar (v / 16 ^ (n - 1 - d) % 16)

theorem hexText_eq_hexChars (x : Word) : hexText x = hexChars 8 x.toNat := rfl

/-- The last digit is the least significant. -/
theorem hexChars_succ (n v : Nat) : hexChars (n + 1) v = hexChars n (v / 16) ++ [hexChar (v % 16)] := by
  have hshift : ∀ d ∈ List.range n,
      hexChar (v / 16 ^ (n + 1 - 1 - d) % 16) = hexChar (v / 16 / 16 ^ (n - 1 - d) % 16) := by
    intro d hd
    rw [List.mem_range] at hd
    rw [Nat.div_div_eq_div_mul, ← Nat.pow_succ', show n + 1 - 1 - d = n - 1 - d + 1 by omega]
  rw [hexChars, List.range_succ, List.map_append, List.map_congr_left hshift, hexChars]
  simp

theorem hexNumber_append_singleton (s : List Byte) (c : Byte) :
    hexNumber (s ++ [c]) = hexNumber s * 16 + (hexVal c).getD 0 := by
  rw [hexNumber, List.foldl_append, hexNumber]
  rfl

theorem hexNumber_nil : hexNumber [] = 0 := rfl

/-- Reading back what was spelled loses only the digits that were not written. -/
theorem hexNumber_hexChars (n v : Nat) : hexNumber (hexChars n v) = v % 16 ^ n := by
  induction n generalizing v with
  | zero => rw [Nat.pow_zero, Nat.mod_one]; rfl
  | succ n ih =>
    rw [hexChars_succ, hexNumber_append_singleton, ih, hexVal_hexChar (Nat.mod_lt v (by decide)), Option.getD_some,
      pow_succ' 16 n, Nat.mod_mul]
    omega

/-- Spelling the number of a digit string gives the string in lower case. -/
theorem hexChars_hexNumber {s : List Byte} (h : s.all isHexDigit = true) :
    hexChars s.length (hexNumber s) = s.map lowerHex := by
  induction s using List.reverseRecOn with
  | nil => rfl
  | append_singleton s c ih =>
    rw [List.all_append, Bool.and_eq_true, List.all_cons, List.all_nil, Bool.and_true] at h
    obtain ⟨v, hv⟩ := isHexDigit_iff.1 h.2
    have hlt := hexVal_lt hv
    rw [hexNumber_append_singleton, hv, Option.getD_some, List.length_append, List.length_singleton, hexChars_succ,
      show (hexNumber s * 16 + v) / 16 = hexNumber s by omega, show (hexNumber s * 16 + v) % 16 = v by omega, ih h.1,
      hexChar_of_hexVal hv, List.map_append, List.map_singleton]

theorem hexNumber_lt (s : List Byte) : hexNumber s < 16 ^ s.length := by
  induction s using List.reverseRecOn with
  | nil => decide
  | append_singleton s c ih =>
    have hc : (hexVal c).getD 0 < 16 := by
      cases hv : hexVal c with
      | none => decide
      | some v => exact hexVal_lt hv
    rw [hexNumber_append_singleton, List.length_append, List.length_singleton, pow_succ]
    omega

/-! ### Words as text (R170, R171) -/

theorem hexWord_toNat {s : List Byte} (h : s.length = 8) : (hexWord s).toNat = hexNumber s := by
  have hlt := hexNumber_lt s
  rw [h] at hlt
  rw [hexWord, BitVec.toNat_ofNat]
  exact Nat.mod_eq_of_lt hlt

theorem hexWord_hexText (x : Word) : hexWord (hexText x) = x := by
  apply BitVec.eq_of_toNat_eq
  rw [hexWord_toNat (hexText_length x), hexText_eq_hexChars, hexNumber_hexChars]
  exact Nat.mod_eq_of_lt x.isLt

theorem hexText_hexWord {s : List Byte} (hlen : s.length = 8) (h : s.all isHexDigit = true) :
    hexText (hexWord s) = s.map lowerHex := by
  rw [hexText_eq_hexChars, hexWord_toNat hlen, ← hlen, hexChars_hexNumber h]

theorem hexText_isHexDigit (x : Word) : ∀ c ∈ hexText x, isHexDigit c = true := by
  intro c hc
  obtain ⟨d, -, rfl⟩ := List.mem_map.1 hc
  exact isHexDigit_hexChar (Nat.mod_lt _ (by decide))

/-- Character `d` spells bits 31 − 4d to 28 − 4d. -/
theorem hexText_getD (x : Word) (d : Fin 8) :
    (hexText x).getD d.val 0#8 = hexChar ((x.extractLsb' (28 - 4 * d.val) 4).toNat) := by
  have hpow : 2 ^ (28 - 4 * d.val) = 16 ^ (7 - d.val) := by
    rw [show 28 - 4 * d.val = 4 * (7 - d.val) by omega, pow_mul]
    rfl
  have hbits : (x.extractLsb' (28 - 4 * d.val) 4).toNat = x.toNat / 16 ^ (7 - d.val) % 16 := by
    rw [BitVec.extractLsb'_toNat, Nat.shiftRight_eq_div_pow, hpow]
  rw [hbits]
  simp [hexText]

/-! ### Sequences cut into slices of one length -/

/-- The slices of length `k`, put together again. -/
theorem flatMap_slices {α : Type} (s : List α) (k n : Nat) :
    ((List.range n).flatMap fun i => (s.drop (k * i)).take k) = s.take (k * n) := by
  induction n with
  | zero => rw [Nat.mul_zero, List.take_zero]; rfl
  | succ n ih =>
    rw [List.range_succ, List.flatMap_append, ih, List.flatMap_singleton, Nat.mul_succ, List.take_add]

/-- Slice `i` of a concatenation of pieces of length `k` is piece `i`. -/
theorem slice_flatMap {α β : Type} {f : α → List β} {k : Nat} (hf : ∀ a, (f a).length = k) (l : List α) (i : Nat)
    (hi : i < l.length) : ((l.flatMap f).drop (k * i)).take k = f l[i] := by
  induction l generalizing i with
  | nil => exact absurd hi (Nat.not_lt_zero i)
  | cons a l ih =>
    rw [List.flatMap_cons]
    cases i with
    | zero => rw [Nat.mul_zero, List.drop_zero, List.take_left' (hf a)]; rfl
    | succ i =>
      rw [Nat.mul_succ, Nat.add_comm, ← List.drop_drop, List.drop_left' (hf a)]
      exact ih i (Nat.lt_of_succ_lt_succ hi)

/-! ### States as text and as bytes (R173 to R176) -/

theorem HashState.get_ofFn (f : Nat → Word) (i : Fin 8) : (HashState.ofFn f).get i = f i.val := by
  fin_cases i <;> rfl

theorem HashState.toList_ofFn (f : Nat → Word) : (HashState.ofFn f).toList = (List.range 8).map f := rfl

theorem HashState.toList_getElem (x : HashState) (i : Fin 8) : x.toList[i.val]'i.isLt = x.get i := by
  fin_cases i <;> rfl

theorem HashState.ext_get {x y : HashState} (h : ∀ i, x.get i = y.get i) : x = y := by
  obtain ⟨x0, x1, x2, x3, x4, x5, x6, x7⟩ := x
  obtain ⟨y0, y1, y2, y3, y4, y5, y6, y7⟩ := y
  rw [HashState.mk.injEq]
  exact ⟨h 0, h 1, h 2, h 3, h 4, h 5, h 6, h 7⟩

theorem stateHex_slice (x : HashState) (i : Fin 8) : ((stateHex x).drop (8 * i.val)).take 8 = hexText (x.get i) := by
  rw [stateHex, slice_flatMap hexText_length _ _ i.isLt, x.toList_getElem]

theorem stateHex_all_isHexDigit (x : HashState) : (stateHex x).all isHexDigit = true := by
  rw [List.all_eq_true]
  intro c hc
  obtain ⟨w, -, hcw⟩ := List.mem_flatMap.1 hc
  exact hexText_isHexDigit w c hcw

theorem hexState_get (s : List Byte) (i : Fin 8) : (hexState s).get i = hexWord ((s.drop (8 * i.val)).take 8) :=
  HashState.get_ofFn _ i

theorem hexState_stateHex (x : HashState) : hexState (stateHex x) = x :=
  HashState.ext_get fun i => by rw [hexState_get, stateHex_slice, hexWord_hexText]

/-- Each of the eight groups is spelled in lower case. -/
theorem stateHex_hexState {s : List Byte} (hlen : s.length = 64) (h : s.all isHexDigit = true) :
    stateHex (hexState s) = s.map lowerHex := by
  have hgroup : ∀ i ∈ List.range 8,
      hexText (hexWord ((s.drop (8 * i)).take 8)) = ((s.drop (8 * i)).take 8).map lowerHex := by
    intro i hi
    rw [List.mem_range] at hi
    refine hexText_hexWord ?_ (List.all_eq_true.2 fun c hc => ?_)
    · rw [List.length_take, List.length_drop]
      omega
    · exact List.all_eq_true.1 h c (List.mem_of_mem_drop (List.mem_of_mem_take hc))
  calc stateHex (hexState s)
    _ = (List.range 8).flatMap fun i => hexText (hexWord ((s.drop (8 * i)).take 8)) := by
      rw [stateHex, hexState, HashState.toList_ofFn, List.flatMap_map]
    _ = (List.range 8).flatMap fun i => ((s.drop (8 * i)).take 8).map lowerHex := List.flatMap_congr hgroup
    _ = (s.take (8 * 8)).map lowerHex := by rw [← List.map_flatMap, flatMap_slices]
    _ = s.map lowerHex := by rw [List.take_of_length_le hlen.le]

/-- A word read at `i` depends on the slice at `i` alone. -/
theorem be32At_slice (s : List Byte) (i : Nat) : be32At s i = be32At ((s.drop i).take 4) 0 := by
  simp [be32At]

theorem beBytes_four_be32At {s : List Byte} {i : Nat} (h : i + 4 ≤ s.length) :
    beBytes 4 (be32At s i).toNat = (s.drop i).take 4 := by
  have hlen : ((s.drop i).take 4).length = 4 := by
    rw [List.length_take, List.length_drop]
    omega
  obtain ⟨b0, b1, b2, b3, hslice⟩ := List.length_eq_four.1 hlen
  rw [be32At_slice, hslice]
  exact beBytes_four_be32 b0 b1 b2 b3

theorem bytesState_get (b : List Byte) (i : Fin 8) : (bytesState b).get i = be32At b (4 * i.val) :=
  HashState.get_ofFn _ i

theorem bytesState_stateBytes (x : HashState) : bytesState (stateBytes x) = x :=
  HashState.ext_get fun i => by
    rw [bytesState_get, be32At_slice, stateBytes, wordsBytes_slice _ _ i.isLt, ← x.get_eq_toList_getD,
      be32At_beBytes_four]

theorem stateBytes_bytesState {b : List Byte} (h : b.length = 32) : stateBytes (bytesState b) = b := by
  have hword : ∀ i ∈ List.range 8, beBytes 4 (be32At b (4 * i)).toNat = (b.drop (4 * i)).take 4 := by
    intro i hi
    rw [List.mem_range] at hi
    exact beBytes_four_be32At (by omega)
  calc stateBytes (bytesState b)
    _ = (List.range 8).flatMap fun i => beBytes 4 (be32At b (4 * i)).toNat := by
      rw [stateBytes, wordsBytes, bytesState, HashState.toList_ofFn, List.flatMap_map]
    _ = (List.range 8).flatMap fun i => (b.drop (4 * i)).take 4 := List.flatMap_congr hword
    _ = b := by rw [flatMap_slices, List.take_of_length_le h.le]

end Sys2Proof.Machine
end

section
/-!
PROOFS. LOAD_IV and the commands of the state codec (R172 to R177): the result of each, what an export leaves in BUF, and the
obligations.
-/

namespace Sys2Proof.Machine

/-! ### What an import reads (R173, R174) -/

theorem State.memRead_all_isHexDigit_iff (s : State) (a n : Nat) :
    (s.memRead a n).all isHexDigit = true ↔ ∀ j, j < n → hexVal (s.byte (a + j)) ≠ none := by
  simp only [State.memRead, List.all_map, List.all_eq_true, List.mem_range, Function.comp_apply, isHexDigit,
    Option.isSome_iff_ne_none]

/-- Reading one byte more adds one digit. -/
theorem hexNumber_memRead_succ (s : State) (a n : Nat) :
    hexNumber (s.memRead a (n + 1)) = hexNumber (s.memRead a n) * 16 + (hexVal (s.byte (a + n))).getD 0 := by
  rw [State.memRead, List.range_succ, List.map_append, List.map_singleton, hexNumber_append_singleton, State.memRead]

/-- Group `i` of the text is the number of its eight digits (R170). -/
theorem hexState_memRead_toNat {s : State} {a : Nat} {d : Nat → Nat}
    (h : ∀ j, j < 64 → hexVal (s.byte (a + j)) = some (d j)) (i : Fin 8) :
    ((hexState (s.memRead a 64)).get i).toNat =
      d (8 * i.val) * 16 ^ 7 + d (8 * i.val + 1) * 16 ^ 6 + d (8 * i.val + 2) * 16 ^ 5 + d (8 * i.val + 3) * 16 ^ 4 +
      d (8 * i.val + 4) * 16 ^ 3 + d (8 * i.val + 5) * 16 ^ 2 + d (8 * i.val + 6) * 16 + d (8 * i.val + 7) := by
  have hfirst : hexVal (s.byte (a + 8 * i.val)) = some (d (8 * i.val)) := h _ (by omega)
  have hdigit : ∀ e, e < 8 → hexVal (s.byte (a + 8 * i.val + e)) = some (d (8 * i.val + e)) := by
    intro e he
    rw [Nat.add_assoc]
    exact h _ (by omega)
  rw [hexState_get, State.memRead_slice _ _ _ _ _ (by omega), hexWord_toNat (State.memRead_length _ _ _)]
  simp only [hexNumber_memRead_succ, State.memRead_zero, hexNumber_nil, Nat.add_zero, hfirst, hdigit, Nat.reduceLT,
    Option.getD_some]
  omega

/-- Word `i` of the state is read from bytes 4i to 4i + 3. -/
theorem bytesState_memRead_get (s : State) (a : Nat) (i : Fin 8) :
    (bytesState (s.memRead a 32)).get i =
      be32 (s.byte (a + 4 * i.val)) (s.byte (a + 4 * i.val + 1)) (s.byte (a + 4 * i.val + 2))
        (s.byte (a + 4 * i.val + 3)) := by
  rw [bytesState_get, be32At, State.memRead_getD _ _ _ _ (by omega), State.memRead_getD _ _ _ _ (by omega),
    State.memRead_getD _ _ _ _ (by omega), State.memRead_getD _ _ _ _ (by omega)]
  rfl

/-! ### The results (R172 to R176) -/

theorem importHexResult_of_len_ne {s : State} (h : s.opLen ≠ 64) : importHexResult s = .error .malformedDigest :=
  if_pos h

theorem importHexResult_of_not_fits {s : State} (hlen : s.opLen = 64) (hsrc : ¬ s.opSrc + 64 ≤ s.cfg.bufSize) :
    importHexResult s = .error .bufferRange := by
  rw [importHexResult, if_neg (not_not.2 hlen), (s.inRange_eq_false _ _).2 hsrc]
  rfl

theorem importHexResult_of_fits {s : State} (hlen : s.opLen = 64) (hsrc : s.opSrc + 64 ≤ s.cfg.bufSize) :
    importHexResult s =
      if (s.memRead s.opSrc 64).all isHexDigit then .ok { s.data with h := hexState (s.memRead s.opSrc 64) }
      else .error .malformedDigest := by
  rw [importHexResult, if_neg (not_not.2 hlen), (s.inRange_eq_true _ _).2 hsrc]
  rfl

theorem importHexResult_of_not_hex {s : State} (hlen : s.opLen = 64) (hsrc : s.opSrc + 64 ≤ s.cfg.bufSize)
    (h : ¬ (s.memRead s.opSrc 64).all isHexDigit = true) : importHexResult s = .error .malformedDigest := by
  rw [importHexResult_of_fits hlen hsrc, if_neg h]

theorem importHexResult_of_hex {s : State} (hlen : s.opLen = 64) (hsrc : s.opSrc + 64 ≤ s.cfg.bufSize)
    (h : (s.memRead s.opSrc 64).all isHexDigit = true) :
    importHexResult s = .ok { s.data with h := hexState (s.memRead s.opSrc 64) } := by
  rw [importHexResult_of_fits hlen hsrc, if_pos h]

/-- IMPORT_HEX succeeds only on a text of hex digits, and then H is what the text spells. -/
theorem importHexResult_ok {s : State} {d : Data} (h : importHexResult s = .ok d) :
    (s.memRead s.opSrc 64).all isHexDigit = true ∧ d.h = hexState (s.memRead s.opSrc 64) := by
  rw [importHexResult] at h
  split_ifs at h with hlen hsrc hhex
  cases h
  exact ⟨hhex, rfl⟩

theorem importBytesResult_of_fits {s : State} (h : s.opSrc + 32 ≤ s.cfg.bufSize) :
    importBytesResult s = .ok { s.data with h := bytesState (s.memRead s.opSrc 32) } := by
  rw [importBytesResult, (s.inRange_eq_true _ _).2 h]
  rfl

theorem importBytesResult_of_not_fits {s : State} (h : ¬ s.opSrc + 32 ≤ s.cfg.bufSize) :
    importBytesResult s = .error .bufferRange := by
  rw [importBytesResult, (s.inRange_eq_false _ _).2 h]
  rfl

/-- IMPORT_BYTES succeeds only with H as the bytes spell it. -/
theorem importBytesResult_ok {s : State} {d : Data} (h : importBytesResult s = .ok d) :
    d.h = bytesState (s.memRead s.opSrc 32) := by
  rw [importBytesResult] at h
  split_ifs at h with hsrc
  cases h
  rfl

theorem exportHexResult_of_fits {s : State} (h : s.opDst + 64 ≤ s.cfg.bufSize) :
    exportHexResult s = .ok (s.data.memWrite s.opDst (stateHex s.h)) := by
  rw [exportHexResult, (s.inRange_eq_true _ _).2 h]
  rfl

theorem exportHexResult_of_not_fits {s : State} (h : ¬ s.opDst + 64 ≤ s.cfg.bufSize) :
    exportHexResult s = .error .bufferRange := by
  rw [exportHexResult, (s.inRange_eq_false _ _).2 h]
  rfl

theorem exportBytesResult_of_fits {s : State} (h : s.opDst + 32 ≤ s.cfg.bufSize) :
    exportBytesResult s = .ok (s.data.memWrite s.opDst (stateBytes s.h)) := by
  rw [exportBytesResult, (s.inRange_eq_true _ _).2 h]
  rfl

theorem exportBytesResult_of_not_fits {s : State} (h : ¬ s.opDst + 32 ≤ s.cfg.bufSize) :
    exportBytesResult s = .error .bufferRange := by
  rw [exportBytesResult, (s.inRange_eq_false _ _).2 h]
  rfl

/-! ### What an export writes (R175) -/

/-- Where the text of a state stands in BUF, character 8i + d spells digit `d` of word `i`. -/
theorem State.byte_of_memRead_stateHex {t : State} {a : Nat} {x : HashState} (h : t.memRead a 64 = stateHex x)
    (i d : Fin 8) : t.byte (a + 8 * i.val + d.val) = hexChar (((x.get i).extractLsb' (28 - 4 * d.val) 4).toNat) := by
  rw [← hexText_getD, ← stateHex_slice, ← h, State.memRead_slice _ _ _ _ _ (by omega), State.memRead_getD _ _ _ _ d.isLt]

/-! ### A command that ended without an error -/

/-- A command that ended with ERR = 0 has a result with data, and its end is the success with that data. -/
theorem exec_err_none {i : Instr} {s t : State} (h : exec i s = .next t) (he : t.err = none) :
    ∃ d, cmdResult i s = .ok d ∧ t = s.succeed d := by
  rw [exec_next_iff] at h
  subst h
  obtain ⟨d, hd, ht⟩ | ⟨e, -, ht⟩ := s.complete_cases (cmdResult i s)
  · exact ⟨d, hd, ht⟩
  · rw [ht] at he
    cases he

/-- A command whose result has data ends in the success with that data, and in nothing else. -/
theorem exec_of_result {i : Instr} {s t : State} {d : Data} (h : exec i s = .next t) (hd : cmdResult i s = .ok d) :
    t = s.succeed d := by
  rw [exec_next_iff.1 h, hd, State.complete_ok]

/-- Bytes that a command wrote are read back from the state it left. -/
theorem State.memRead_succeed_memWrite (s : State) (a : Nat) (bs : List Byte) :
    (s.succeed (s.data.memWrite a bs)).memRead a bs.length = bs :=
  State.memRead_of_setBytes (s.succeed_memWrite_buf a bs) rfl

theorem exportHex_memRead {s t : State} (h : exec .exportHex s = .next t) (hdst : s.opDst + 64 ≤ s.cfg.bufSize) :
    t.memRead s.opDst 64 = stateHex s.h := by
  rw [exec_of_result h (exportHexResult_of_fits hdst), ← stateHex_length s.h]
  exact s.memRead_succeed_memWrite s.opDst (stateHex s.h)

theorem exportBytes_memRead {s t : State} (h : exec .exportBytes s = .next t) (hdst : s.opDst + 32 ≤ s.cfg.bufSize) :
    t.memRead s.opDst 32 = stateBytes s.h := by
  rw [exec_of_result h (exportBytesResult_of_fits hdst), ← stateBytes_length s.h]
  exact s.memRead_succeed_memWrite s.opDst (stateBytes s.h)

theorem exportHex_fits {s t : State} (h : exec .exportHex s = .next t) (he : t.err = none) :
    s.opDst + 64 ≤ s.cfg.bufSize := by
  by_contra hdst
  obtain ⟨d, hd, -⟩ := exec_err_none h he
  cases hd.symm.trans (exportHexResult_of_not_fits hdst)

theorem exportBytes_fits {s t : State} (h : exec .exportBytes s = .next t) (he : t.err = none) :
    s.opDst + 32 ≤ s.cfg.bufSize := by
  by_contra hdst
  obtain ⟨d, hd, -⟩ := exec_err_none h he
  cases hd.symm.trans (exportBytesResult_of_not_fits hdst)

theorem exec_cfg {i : Instr} {s t : State} (h : exec i s = .next t) : t.cfg = s.cfg := by
  rw [exec_next_iff.1 h, State.complete_cfg]

/-- IMPORT_HEX of the text of a state succeeds with that state. -/
theorem importHex_of_stateHex {s : State} {x : HashState} (hlen : s.opLen = 64) (hsrc : s.opSrc + 64 ≤ s.cfg.bufSize)
    (hread : s.memRead s.opSrc 64 = stateHex x) : ∃ u, exec .importHex s = .next u ∧ u.err = none ∧ u.h = x := by
  have hresult : cmdResult .importHex s = .ok { s.data with h := x } := by
    have hhex := importHexResult_of_hex hlen hsrc (by rw [hread]; exact stateHex_all_isHexDigit x)
    rwa [hread, hexState_stateHex] at hhex
  exact ⟨_, exec_eq_complete _ _, by rw [hresult]; rfl, by rw [hresult]; rfl⟩

/-- IMPORT_BYTES of the bytes of a state succeeds with that state. -/
theorem importBytes_of_stateBytes {s : State} {x : HashState} (hsrc : s.opSrc + 32 ≤ s.cfg.bufSize)
    (hread : s.memRead s.opSrc 32 = stateBytes x) : ∃ u, exec .importBytes s = .next u ∧ u.err = none ∧ u.h = x := by
  have hresult : cmdResult .importBytes s = .ok { s.data with h := x } := by
    have hfits := importBytesResult_of_fits hsrc
    rwa [hread, bytesState_stateBytes] at hfits
  exact ⟨_, exec_eq_complete _ _, by rw [hresult]; rfl, by rw [hresult]; rfl⟩

/-! ### The obligations -/

/-- Settles O36: LOAD_IV has one result, whose H is the reset value. -/
theorem loadIvSetsInitialValue : Obligations.LoadIvSetsInitialValue :=
  ⟨(decodesExactlyItsEncoding _ .loadIv).2 rfl, fun _ =>
    succeeds_of_result (i := .loadIv) rfl ⟨rfl, rfl, rfl, rfl, sameBytes_of_buf_eq rfl rfl⟩⟩

/-- Settles O37: the three errors in the order of the checks, and each word from its eight digits. -/
theorem importHexParsesDigest : Obligations.ImportHexParsesDigest := by
  refine ⟨(decodesExactlyItsEncoding _ .importHex).2 rfl, by decide, by decide, by decide, fun _ => hexVal_eq_none,
    fun s => ⟨fun hlen => failsWith_of_result (importHexResult_of_len_ne hlen),
      fun hlen hsrc => failsWith_of_result (importHexResult_of_not_fits hlen hsrc), ?_, ?_⟩⟩
  · rintro hlen hsrc ⟨j, hj, hbad⟩
    refine failsWith_of_result (importHexResult_of_not_hex hlen hsrc fun hhex => ?_)
    exact (s.memRead_all_isHexDigit_iff _ _).1 hhex j hj hbad
  · intro d hlen hsrc hd
    have hhex : (s.memRead s.opSrc 64).all isHexDigit = true :=
      (s.memRead_all_isHexDigit_iff _ _).2 fun j hj => by rw [hd j hj]; exact Option.some_ne_none _
    exact succeeds_of_result (importHexResult_of_hex hlen hsrc hhex)
      ⟨hexState_memRead_toNat hd, rfl, rfl, sameBytes_of_buf_eq rfl rfl⟩

/-- Settles O38: the one check, and each word from its four bytes. -/
theorem importBytesReadsState : Obligations.ImportBytesReadsState :=
  ⟨(decodesExactlyItsEncoding _ .importBytes).2 rfl, fun s =>
    ⟨fun hsrc => succeeds_of_result (importBytesResult_of_fits hsrc)
      ⟨bytesState_memRead_get s s.opSrc, rfl, rfl, sameBytes_of_buf_eq rfl rfl⟩,
      fun hsrc => failsWith_of_result (importBytesResult_of_not_fits hsrc)⟩⟩

/-- Settles O39: the text is read back group by group, each the spelling of its word. -/
theorem exportHexWritesDigest : Obligations.ExportHexWritesDigest := by
  refine ⟨(decodesExactlyItsEncoding _ .exportHex).2 rfl, by decide, by decide, fun s => ⟨fun hdst => ?_, fun hdst =>
    failsWith_of_result (exportHexResult_of_not_fits hdst)⟩⟩
  have hbuf := s.succeed_memWrite_buf s.opDst (stateHex s.h)
  refine succeeds_of_result (exportHexResult_of_fits hdst) ⟨fun i d => ?_, ?_, rfl, rfl⟩
  · refine State.byte_of_memRead_stateHex ?_ i d
    rw [← stateHex_length s.h]; exact s.memRead_succeed_memWrite s.opDst (stateHex s.h)
  · rw [← stateHex_length s.h]; exact sameBytesOutside_of_setBytes hbuf rfl

/-- Settles O40: the eight words are written as 32 bytes, each read back as its four. -/
theorem exportBytesWritesState : Obligations.ExportBytesWritesState := by
  refine ⟨(decodesExactlyItsEncoding _ .exportBytes).2 rfl, fun s => ⟨fun hdst => ?_, fun hdst =>
    failsWith_of_result (exportBytesResult_of_not_fits hdst)⟩⟩
  have hbuf := s.succeed_memWrite_buf s.opDst (stateBytes s.h)
  refine succeeds_of_result (exportBytesResult_of_fits hdst) ⟨fun i => ?_, ?_, rfl, rfl⟩
  · rw [State.memRead_of_setWords hbuf rfl i.isLt, ← s.h.get_eq_toList_getD, beBytes_four_word]
  · rw [← stateBytes_length s.h]; exact sameBytesOutside_of_setBytes hbuf rfl

/-- Settles O51: an accepted text is 64 digits, so the state it spells is spelled back in lower case. -/
theorem hexImportThenExportLowersCase : Obligations.HexImportThenExportLowersCase := by
  refine ⟨by decide, fun _ => lowerHex_of_not_upper, fun s t u c himport he hexport hdst => ?_⟩
  obtain ⟨d, hd, rfl⟩ := exec_err_none himport he
  obtain ⟨hhex, hstate⟩ := importHexResult_ok hd
  calc u.memRead c.dst.toNat 64
    _ = stateHex d.h := exportHex_memRead hexport hdst
    _ = (s.memRead s.opSrc 64).map lowerHex := by
      rw [hstate, stateHex_hexState (State.memRead_length _ _ _) hhex]

/-- Settles O52: the import reads back what the export wrote, which spells H. -/
theorem exportThenImportKeepsState : Obligations.ExportThenImportKeepsState := by
  refine fun s t c => ⟨fun hexport he hsrc hlen => ?_, fun hexport he hsrc => ?_⟩
  · have hdst := exportHex_fits hexport he
    have hread := exportHex_memRead hexport hdst
    rw [← exec_cfg hexport, State.opDst, ← hsrc] at hdst
    rw [State.opDst, ← hsrc] at hread
    exact importHex_of_stateHex (s := { t with cmd := c }) (congrArg BitVec.toNat hlen) hdst hread
  · have hdst := exportBytes_fits hexport he
    have hread := exportBytes_memRead hexport hdst
    rw [← exec_cfg hexport, State.opDst, ← hsrc] at hdst
    rw [State.opDst, ← hsrc] at hread
    exact importBytes_of_stateBytes (s := { t with cmd := c }) hdst hread

/-- Settles O53: the bytes that were read spell the state, which is written as the same bytes. -/
theorem bytesImportThenExportWritesSame : Obligations.BytesImportThenExportWritesSame := by
  intro s t u c himport he hexport hdst
  obtain ⟨d, hd, rfl⟩ := exec_err_none himport he
  calc u.memRead c.dst.toNat 32
    _ = stateBytes d.h := exportBytes_memRead hexport hdst
    _ = s.memRead s.opSrc 32 := by
      rw [importBytesResult_ok hd, stateBytes_bytesState (State.memRead_length _ _ _)]

end Sys2Proof.Machine
end

section
/-!
PROOFS. OVR and `irq` (R209, R210): what a host action and a Complete do to OVR, and the level of `irq` after each event.
-/

namespace Sys2Proof.Machine

/-! ### OVR (R27, R40, R209) -/

/-- A performed write clears OVR when it is a STATUS write with bit 2 set, and otherwise leaves it. -/
theorem State.writeTarget_ovr (s : State) (t : Target) (v : Word) :
    (s.writeTarget t v).ovr = s.ovr ∨
    ((s.writeTarget t v).ovr = false ∧ t = .reg .status ∧ v.getLsbD 2 = true) := by
  obtain h | ⟨-, h⟩ | ⟨rfl, h⟩ | ⟨-, h⟩ | ⟨-, -, _, _, _, _, _, _, _, h, -⟩ := s.writeTarget_cases t v
  all_goals rw [h]
  · exact .inl rfl
  · exact .inl rfl
  · cases hv : v.getLsbD 2 with
    | false => exact .inl (by rw [State.writeStatus_ovr, hv, Bool.not_false, Bool.and_true])
    | true => exact .inr ⟨by rw [State.writeStatus_ovr, hv, Bool.not_true, Bool.and_false], rfl, rfl⟩
  · exact .inl rfl
  · exact .inl rfl

/-- What a host action does to OVR: a write dropped while BUSY sets it and leaves `irq`, a reset and a STATUS write with
bit 2 set clear it, and nothing else changes it. -/
theorem State.hostStep_ovr (s : State) (op : HostOp) :
    (s.hostStep op).ovr = s.ovr ∨
    ((s.hostStep op).ovr = true ∧ s.phase = .busy ∧ (∃ a v, op = .txn (.write a v) ∧ DroppedOffset s.cfg a) ∧
      (s.hostStep op).irq = s.irq) ∨
    ((s.hostStep op).ovr = false ∧
      (op.resets s ∨ ∃ v : Word, op = .txn (.write 0x008#13 v) ∧ v.getLsbD 2 = true)) := by
  obtain ⟨hr, _, h⟩ | ⟨_, _, _, h⟩ | ⟨a, v, hop, hb, ha, h⟩ | ⟨a, v, t, hop, -, hd, -, h⟩ := s.hostStep_cases op
  all_goals rw [h]
  · exact .inr (.inr ⟨rfl, .inl hr⟩)
  · exact .inl rfl
  · exact .inr (.inl ⟨rfl, hb, ⟨a, v, hop, ha⟩, rfl⟩)
  · obtain hsame | ⟨hclear, rfl, hv⟩ := s.writeTarget_ovr t v
    · exact .inl hsame
    · obtain rfl := decodeOffset_eq_reg_iff.1 hd
      exact .inr (.inr ⟨hclear, .inr ⟨v, hop, hv⟩⟩)

/-- What a step does to OVR: only the host's action can change it, as `State.hostStep_ovr` says. -/
theorem step_ovr {s t : State} (h : step s = .next t) :
    t.ovr = s.ovr ∨
    (t.ovr = true ∧ s.phase = .busy ∧ (∃ a v, s.hostDoes (.txn (.write a v)) ∧ DroppedOffset s.cfg a) ∧
      t.irq = s.irq) ∨
    (t.ovr = false ∧ ∃ op, s.hostDoes op ∧
      (op.resets s ∨ ∃ v : Word, op = .txn (.write 0x008#13 v) ∧ v.getLsbD 2 = true)) := by
  obtain rfl | ⟨op, rest, turns, hop, rfl⟩ | ⟨-, s', r, rfl, rfl, -⟩ := step_next_cases h
  · exact .inl rfl
  · obtain hsame | ⟨hset, hb, ⟨a, v, rfl, ha⟩, hirq⟩ | ⟨hclear, hwhy⟩ :=
      State.hostStep_ovr { s with inputs := rest, turns := turns } op
    · exact .inl hsame
    · exact .inr (.inl ⟨hset, hb, ⟨a, v, hop, ha⟩, hirq⟩)
    · exact .inr (.inr ⟨hclear, op, hop, hwhy⟩)
  · exact .inl (State.complete_ovr _ r)

/-- The step of a host write that R40 drops. -/
theorem step_write_dropped {s : State} (hr : s.rstN = true) (hb : s.phase = .busy) {a : Offset} {v : Word}
    (hop : s.hostDoes (.txn (.write a v))) (ha : DroppedOffset s.cfg a) :
    ∃ rest turns, step s =
      .next (({ s with inputs := rest, turns := turns, ovr := true } : State).respond none .ok) := by
  obtain ⟨hhost, rest, hin⟩ := hop
  obtain ⟨_, _, turns, -, hturns⟩ := State.exists_of_busy_host hb hhost
  refine ⟨rest, s.turns.tail, ?_⟩
  rw [(stepPerformsOneHostAction.1 s _ rest hin).2 hb (by rw [hturns]; rfl)]
  exact congrArg _ (State.transact_write_dropped (s := { s with inputs := rest, turns := s.turns.tail }) hr hb ha v)

/-! ### The level of `irq` (R26, R210) -/

theorem State.irq_of_done {s : State} (h : s.done = true) : s.irq = s.ie := by
  rw [State.irq, h, Bool.and_true]

theorem State.irq_of_not_done {s : State} (h : s.done = false) : s.irq = false := by
  rw [State.irq, h, Bool.and_false]

theorem State.irq_of_masked {s : State} (h : s.ie = false) : s.irq = false := by
  rw [State.irq, h, Bool.false_and]

/-- A Complete of any result sets DONE and leaves IE. -/
theorem State.complete_irq (s : State) (r : CmdResult) : (s.complete r).irq = s.ie := by
  rw [State.irq_of_done (s.complete_done r), State.complete_ie]

/-- An answer on the bus alone leaves the level. -/
@[simp] theorem State.respond_irq (s : State) (d : Option Word) (r : Resp) : (s.respond d r).irq = s.irq := rfl

/-- After a performed write of a register the level is that of the write's effect. -/
theorem State.transact_write_reg_irq {s : State} (hr : s.rstN = true) {r : Reg}
    (h : s.phase = .idle ∨ (Target.reg r).dropsWhileBusy = false) (v : Word) :
    (s.transact (.write r.offset v)).irq = (s.writeTarget (.reg r) v).irq := by
  rw [State.transact_write_reg hr h, State.respond_irq]

/-! ### The obligations -/

/-- Settles O28: `step_ovr` lists what sets OVR and what clears it, and a dropped write is a step that sets it. -/
theorem ovrIsStickyAndSetByDroppedWrites : Obligations.OvrIsStickyAndSetByDroppedWrites := by
  intro s t h
  refine ⟨fun h1 h0 => ?_, fun h0 h1 => ?_, fun a v hr hb hop ha => ?_⟩
  · obtain hsame | ⟨hset, -⟩ | ⟨-, hwhy⟩ := step_ovr h
    · exact absurd (h0.symm.trans (hsame.trans h1)) Bool.false_ne_true
    · exact absurd (h0.symm.trans hset) Bool.false_ne_true
    · exact hwhy
  · obtain hsame | ⟨-, hwhy⟩ | ⟨hclear, -⟩ := step_ovr h
    · exact absurd ((hsame.trans h0).symm.trans h1) Bool.false_ne_true
    · exact hwhy
    · exact absurd (hclear.symm.trans h1) Bool.false_ne_true
  · obtain ⟨rest, turns, hstep⟩ := step_write_dropped hr hb hop ha
    cases hstep.symm.trans h
    rfl

/-- Settles O31: a Complete sets DONE, acceptance and W1C clear it, a CTRL write can mask it, and a bus error only answers. -/
theorem irqFollowsCompletionAndEnable : Obligations.IrqFollowsCompletionAndEnable := by
  refine ⟨fun i s t h => ?_, fun s t ha h => ?_, fun s w hr hi => ?_, fun s v hr hv => ?_, fun s v hr hv => ?_,
    fun s a v hr ha => ⟨?_, ?_⟩⟩
  · rw [exec_next_iff.1 h, State.complete_irq]
  · obtain ⟨r, rfl⟩ := step_engine_complete ha h
    exact State.complete_irq _ r
  · exact (State.transact_write_reg_irq (r := .cmd) hr (.inl hi) w).trans (State.irq_of_not_done (s.accept_done w))
  · have hdone : (s.writeStatus v).done = false := by rw [State.writeStatus_done, hv, Bool.not_true, Bool.and_false]
    exact (State.transact_write_reg_irq (r := .status) hr (.inr rfl) v).trans (State.irq_of_not_done hdone)
  · have hmask : (s.writeCtrl v).ie = false := (s.writeCtrl_ie v).trans hv
    exact (State.transact_write_reg_irq (r := .ctrl) hr (.inr rfl) v).trans (State.irq_of_masked hmask)
  · rw [State.transact_read_unmapped hr ha, State.respond_irq]
  · rw [State.transact_write_unmapped hr ha, State.respond_irq]

end Sys2Proof.Machine
end

section
/-!
PROOFS. Reset from any state (R230, R231): what an edge of `rst_n` leaves, and a transaction while it is held at 0.
-/

namespace Sys2Proof.Machine

/-! ### An edge of `rst_n` -/

/-- An edge of `rst_n`: the reset is applied, and the line is at its new level. -/
def State.resetEdge (s : State) (level : Bool) : State :=
  { s.applyReset with rstN := level }

theorem State.hostStep_assertReset (s : State) : s.hostStep .assertReset = s.resetEdge false := rfl

theorem State.hostStep_releaseReset_held {s : State} (h : s.rstN = false) :
    s.hostStep .releaseReset = s.resetEdge true := by
  simp only [State.hostStep, h, Bool.false_eq_true, if_false, State.resetEdge]

/-- At `rst_n` = 1 a release is no edge (assumption 8). -/
theorem State.hostStep_releaseReset_running {s : State} (h : s.rstN = true) : s.hostStep .releaseReset = s := by
  simp only [State.hostStep, h, if_true]

@[simp] theorem State.resetEdge_rstN (s : State) (level : Bool) : (s.resetEdge level).rstN = level := rfl

/-- The configuration is not the HXE's to reset (R231). -/
@[simp] theorem State.resetEdge_cfg (s : State) (level : Bool) : (s.resetEdge level).cfg = s.cfg := rfl

/-- The registers are those of `State.resetWith`, whatever the state was (R230). -/
theorem State.resetEdge_resetValues (s : State) (level : Bool) : ResetValues (s.resetEdge level) :=
  resetWith_resetValues s.cfg

/-- DONE is 0 after an edge, so `irq` is low (R210, R231). -/
@[simp] theorem State.resetEdge_irq (s : State) (level : Bool) : (s.resetEdge level).irq = false :=
  State.irq_of_not_done s.applyReset_done

/-- No BUF byte is written after an edge, so each has the free value of the new epoch (R63, U7). -/
@[simp] theorem State.resetEdge_byte (s : State) (level : Bool) (a : Nat) :
    (s.resetEdge level).byte a = Config.unwrittenByte (s.epoch + 1) a := rfl

/-- All that R230 and R231 say of an edge, to either level. -/
theorem State.resetEdge_effect (s : State) (level : Bool) :
    ResetValues (s.resetEdge level) ∧ (s.resetEdge level).rstN = level ∧ (s.resetEdge level).cfg = s.cfg ∧
    (s.resetEdge level).irq = false ∧ ∀ a, (s.resetEdge level).byte a = Config.unwrittenByte (s.epoch + 1) a :=
  ⟨s.resetEdge_resetValues level, s.resetEdge_rstN level, s.resetEdge_cfg level, s.resetEdge_irq level,
    s.resetEdge_byte level⟩

/-! ### The obligations -/

/-- Settles O55: driving `rst_n` to 0 and its release are edges to the two levels, with `State.resetEdge_effect` each; at
`rst_n` = 1 a release is none. -/
theorem resetFromAnyState : Obligations.ResetFromAnyState := by
  refine ⟨fun s => ?_, fun s h => ?_, fun s h => State.hostStep_releaseReset_running h⟩
  · rw [State.hostStep_assertReset]
    exact s.resetEdge_effect false
  · rw [State.hostStep_releaseReset_held h]
    exact s.resetEdge_effect true

/-- Settles O56: at `rst_n` = 0 the bus only answers, with the response of `State.respondInReset`. -/
theorem transactionInResetHasNoEffect : Obligations.TransactionInResetHasNoEffect := by
  intro s x h
  rw [State.transact_inReset h]
  exact ⟨_, rfl⟩

end Sys2Proof.Machine
end
